-- ==== Sys2Proof/Word.lean ====
section
/-! DEFINITION. The words of the block: a byte, a 32-bit port word, a 29-bit identifier (00_scope.md R6, R8). All values are unsigned. -/

namespace Sys2Proof

/-- One byte of a payload or of a buffer. -/
abbrev Byte := BitVec 8

/-- One word of the command port, or the can_id word of a frame record (R52, R80). -/
abbrev Word := BitVec 32

/-- A CAN identifier: ID_WIDTH = 29 (R6, R70). -/
abbrev Ident := BitVec 29

end Sys2Proof
end

