-- ==== Sys2Proof/Config.lean ====
section
/-! DEFINITION. The parameters of 00_scope.md R6: constants the source fixes, the elaboration-time parameters of R7 as one record, and the OPEN ones as opaque constants. -/

namespace Sys2Proof.Config

/-- FC_TIMEOUT_TICKS (R6): 0.5 s in ticks of 100 microseconds. -/
def fcTimeoutTicks : Nat := 5000

/-- BUF_SIZE (R6, R50): bytes in RA_BUF and in TX_BUF. -/
def bufSize : Nat := 4095

/-- MAX_DLC (R6): the most data bytes of a frame. -/
def maxDlc : Nat := 8

/-- SF_MAX (R6): the most payload bytes of a Single frame. -/
def sfMax : Nat := 7

/-- FF_DATA (R6): payload bytes of a transmitted First frame. -/
def ffData : Nat := 6

/-- CF_MAX (R6): the most payload bytes of a Consecutive frame. -/
def cfMax : Nat := 7

/-- WAIT_POLICY (R6, R186): what follows the Wait pause. -/
inductive WaitPolicy where
  | rewait
  | resume
  deriving DecidableEq, Repr, Inhabited

/-- A queue depth of R6: unbounded, or at least 1. `bounded n` stands for the depth n + 1, so no depth is 0. -/
inductive Depth where
  | unbounded
  | bounded (lessOne : Nat)
  deriving DecidableEq, Repr, Inhabited

/-- The parameters R7 fixes for a model instance. -/
structure Params where
  pubDisc : BitVec 2
  svcDisc : BitVec 2
  svcMarker : BitVec 8
  strictMarker : Bool
  waitPolicy : WaitPolicy
  waitInterval : BitVec 32
  qTx : Depth
  qMsg : Depth
  qErr : Depth
  deriving DecidableEq, Repr

/-- The constraints of R6: PUB_DISC differs from SVC_DISC, and WAIT_INTERVAL is at least 1. -/
abbrev Params.wf (p : Params) : Prop := p.pubDisc ≠ p.svcDisc ∧ p.waitInterval ≠ 0

/-- WAIT_INTERVAL less one. OPEN in R6: no body, so nothing is known of it but 1 ≤ WAIT_INTERVAL < 2^32 (log 1). -/
opaque waitIntervalLessOne : Fin 4294967295

/-- Q_TX. OPEN in R6 (log 1). -/
opaque queueDepthTx : Depth

/-- Q_MSG. OPEN in R6 (log 1). -/
opaque queueDepthMsg : Depth

/-- Q_ERR. OPEN in R6 (log 1). -/
opaque queueDepthErr : Depth

/-- The parameters after reset: the defaults of R6, and the OPEN ones left open. -/
def params : Params where
  pubDisc := 0b01
  svcDisc := 0b00
  svcMarker := 0xDA
  strictMarker := true
  waitPolicy := .rewait
  waitInterval := BitVec.ofNat 32 (waitIntervalLessOne.val + 1)
  qTx := queueDepthTx
  qMsg := queueDepthMsg
  qErr := queueDepthErr

end Sys2Proof.Config
end

