-- ==== Sys2Proof/Syntax.lean ====
section
/-! DEFINITION. The instructions, one constructor per row of spec/opcode_table.json, and the raw inputs the ports carry before decoding. -/

namespace Sys2Proof

/-- A frame record (20_memory.md R52) without its padding bytes: the can_id word, the length field, and the eight data bytes. -/
structure FrameRecord where
  canId : Word
  len : Byte
  data : List Byte
  deriving DecidableEq, Repr

/-- The identifier fields of a Service frame (30_encoding.md R72) and the length of its record. -/
structure ServiceHead where
  prio : BitVec 3
  marker : BitVec 8
  dst : BitVec 8
  src : BitVec 8
  len : Byte
  deriving DecidableEq, Repr

/-- One constructor per row of spec/opcode_table.json. The rows of the formats ID29 and PCI are wire encodings: the model reads an
ID29 row and a PCI_ row as the arrival of a frame of that form (log 6), and an FC_ row as the TX engine's consumption of a stored
flow-control tuple with that flow status (log 7). -/
inductive Instr where
  -- CMD: commands (30_encoding.md R81); operands are whole 32-bit words (R83)
  | encpub (a b c : Word)
  | decpub (a : Word)
  | encsvc (a b c : Word)
  | decsvc (a : Word)
  | classify (a b c d : Word)
  | wrbuf (a b : Word)
  | send (a b c d : Word)
  | status
  -- CMD: reserved command encodings (R82)
  | reservedOp0
  | reservedOp9
  | reservedOpA
  | reservedOpB
  | reservedOpC
  | reservedOpD
  | reservedOpE
  | reservedOpF
  | reservedCwHigh (cw : Word)
  -- ID29: a frame whose identifier is of this row (R71, R72, R79)
  | idPub (prio : BitVec 3) (doid : BitVec 16) (src : BitVec 8) (len : Byte) (data : List Byte)
  | idSvc (head : ServiceHead) (data : List Byte)
  | idReservedDisc (prio : BitVec 3) (disc : BitVec 2) (low : BitVec 24) (len : Byte) (data : List Byte)
  -- PCI: a Service frame whose payload byte 0 is of this row (R74 to R76); rest holds the data bytes after the named fields
  | pciSf (head : ServiceHead) (sfDl : BitVec 4) (rest : List Byte)
  | pciFf (head : ServiceHead) (ffDl : BitVec 12) (rest : List Byte)
  | pciCf (head : ServiceHead) (sn : BitVec 4) (rest : List Byte)
  | pciFc (head : ServiceHead) (fs : BitVec 4) (bs st : Byte) (rest : List Byte)
  | pciReserved (head : ServiceHead) (nib low : BitVec 4) (rest : List Byte)
  -- PCI: the flow status of a stored tuple at the TX engine (R76, R180)
  | fcContinue
  | fcWait
  | fcAbort
  | fcReserved (fs : BitVec 4)
  -- PORT: port actions (R85)
  | rxframe (rec : FrameRecord)
  | tick
  | txstep
  | poptx
  | popmsg
  | poperr
  | reset
  deriving DecidableEq, Repr

/-- A command as the command port carries it (R80). -/
structure Command where
  cw : Word
  a : Word
  b : Word
  c : Word
  d : Word
  deriving DecidableEq, Repr

/-- A frame as the RX port carries it: the 16-byte image of R52, or, for the wire rows of the table, an identifier with its data
bytes, or a Service identifier with data bytes that begin with the PCI byte (log 6). -/
inductive RxInput where
  | record (image : List Byte)
  | ident (id : Ident) (len : Byte) (data : List Byte)
  | service (head : ServiceHead) (data : List Byte)
  deriving DecidableEq, Repr

/-- Which agent moves (R60). `flow b` is a TX-engine turn for a stored tuple whose FlowControl byte 0 is b (log 7). -/
inductive Turn where
  | command
  | receive
  | flow (pci : Byte)
  | tick
  | txstep
  | poptx
  | popmsg
  | poperr
  | reset
  deriving DecidableEq, Repr

/-- What an agent's turn presents to the decoder. -/
inductive PortInput where
  | command (c : Command)
  | rx (r : RxInput)
  | flow (pci : Byte)
  | tick
  | txstep
  | poptx
  | popmsg
  | poperr
  | reset
  deriving DecidableEq, Repr

/-- Why the decoder rejects a port input. Each is a list of bytes of the wrong length, which no port of the hardware carries (R52),
or a flow turn on a byte that is no FlowControl byte (R76). -/
inductive DecodeReject where
  | recordLength
  | dataLength
  | notFlowControl
  deriving DecidableEq, Repr

end Sys2Proof
end

