-- ==== Sys2Proof/WellFormed.lean ====
section
/-! DEFINITION. What the encodings of 30_encoding.md admit of an instruction's operands, under given parameters. -/

namespace Sys2Proof

/-- A Service identifier of the table's row ID_SVC: with STRICT_MARKER its marker is SVC_MARKER (R72, R79). -/
def ServiceHead.wf (p : Config.Params) (h : ServiceHead) : Bool :=
  !p.strictMarker || h.marker == p.svcMarker

/-- Well-formed operands. A command admits every operand word, since an out-of-range value is an operand the block itself refuses
(R83); a frame of the wire rows has eight data bytes (R52) and the fixed bits of its row. -/
def Instr.wf (p : Config.Params) : Instr → Bool
  | .encpub _ _ _ | .decpub _ | .encsvc _ _ _ | .decsvc _ | .classify _ _ _ _ | .wrbuf _ _ | .send _ _ _ _ | .status => true
  | .reservedOp0 | .reservedOp9 | .reservedOpA | .reservedOpB | .reservedOpC | .reservedOpD | .reservedOpE | .reservedOpF => true
  | .reservedCwHigh cw => cw.extractLsb' 4 28 != 0
  | .idPub _ _ _ _ data => data.length == 8
  | .idSvc h data => h.wf p && data.length == 8
  | .idReservedDisc _ disc _ _ data => disc != p.pubDisc && disc != p.svcDisc && data.length == 8
  | .pciSf h _ rest => h.wf p && rest.length == 7
  | .pciFf h _ rest => h.wf p && rest.length == 6
  | .pciCf h _ rest => h.wf p && rest.length == 7
  | .pciFc h _ _ _ rest => h.wf p && rest.length == 5
  | .pciReserved h nib _ rest => h.wf p && decide (4 ≤ nib) && rest.length == 7
  | .fcContinue | .fcWait | .fcAbort => true
  | .fcReserved fs => decide (3 ≤ fs)
  | .rxframe r => r.data.length == 8
  | .tick | .txstep | .poptx | .popmsg | .poperr | .reset => true

end Sys2Proof
end

