-- ==== Sys2Proof/Decode.lean ====
section
/-! DEFINITION. From port inputs to instructions and back: identifier layouts (30_encoding.md R70 to R72), PCI bytes (R74 to R76), the
command word (R80 to R82), the frame image (20_memory.md R52, R53), and the table words the host asks about. -/

namespace Sys2Proof

/-- The data byte at an index; bytes past the list read as 0 and no rule reads them. -/
def byteAt (data : List Byte) (i : Nat) : Byte := data.getD i 0

/-- Bits 7:4 of a byte. -/
def hiNibble (b : Byte) : BitVec 4 := b.extractLsb' 4 4

/-- Bits 3:0 of a byte. -/
def loNibble (b : Byte) : BitVec 4 := b.extractLsb' 0 4

/-- A PCI byte (R74): the sub-type nibble and the low nibble. -/
def pciByte (nib low : BitVec 4) : Byte := nib ++ low

/-- The bytes of a word, least significant first (R53, R83). -/
def wordBytes (w : Word) : List Byte :=
  [w.extractLsb' 0 8, w.extractLsb' 8 8, w.extractLsb' 16 8, w.extractLsb' 24 8]

/-- The word of four bytes, least significant first (R53). -/
def wordOfBytes (b0 b1 b2 b3 : Byte) : Word := b3 ++ b2 ++ b1 ++ b0

/-- The Publication identifier layout `PRIO PUB_DISC DOID SRC` (R71). -/
def pubIdent (p : Config.Params) (prio : BitVec 3) (doid : BitVec 16) (src : BitVec 8) : Ident :=
  prio ++ p.pubDisc ++ doid ++ src

/-- The Service identifier layout `PRIO SVC_DISC MARKER DST SRC` (R72), with the marker as a field. -/
def svcIdent (p : Config.Params) (prio : BitVec 3) (marker dst src : BitVec 8) : Ident :=
  prio ++ p.svcDisc ++ marker ++ dst ++ src

/-- PRIO, bits 28:26 (R70). -/
def identPrio (id : Ident) : BitVec 3 := id.extractLsb' 26 3

/-- DISC, bits 25:24 (R70). -/
def identDisc (id : Ident) : BitVec 2 := id.extractLsb' 24 2

/-- DOID, bits 23:8 (R71). -/
def identDoid (id : Ident) : BitVec 16 := id.extractLsb' 8 16

/-- MARKER, bits 23:16 (R72). -/
def identMarker (id : Ident) : BitVec 8 := id.extractLsb' 16 8

/-- DST, bits 15:8 (R72). -/
def identDst (id : Ident) : BitVec 8 := id.extractLsb' 8 8

/-- SRC, bits 7:0 (R71, R72). -/
def identSrc (id : Ident) : BitVec 8 := id.extractLsb' 0 8

/-- The can_id word of an extended frame: bit 31 set, bits 30:29 clear (R52). -/
def extCanId (id : Ident) : Word := 0b100#3 ++ id

/-- Whether the marker check of R121 passes. -/
def markerOk (p : Config.Params) (marker : BitVec 8) : Bool := marker == p.svcMarker || !p.strictMarker

/-- Decode the command word (R81, R82): reserved bits first, then OP; operands a command does not use are ignored (R80). -/
def decodeCommand (c : Command) : Instr :=
  if c.cw.extractLsb' 4 28 ≠ 0 then .reservedCwHigh c.cw
  else match (c.cw.extractLsb' 0 4).toNat with
    | 0x1 => .encpub c.a c.b c.c
    | 0x2 => .decpub c.a
    | 0x3 => .encsvc c.a c.b c.c
    | 0x4 => .decsvc c.a
    | 0x5 => .classify c.a c.b c.c c.d
    | 0x6 => .wrbuf c.a c.b
    | 0x7 => .send c.a c.b c.c c.d
    | 0x8 => .status
    | 0x9 => .reservedOp9
    | 0xA => .reservedOpA
    | 0xB => .reservedOpB
    | 0xC => .reservedOpC
    | 0xD => .reservedOpD
    | 0xE => .reservedOpE
    | 0xF => .reservedOpF
    | _ => .reservedOp0

/-- Decode a 16-byte frame image (R52): padding bytes 5 to 7 are ignored on receive. -/
def decodeRecord : List Byte → Except DecodeReject Instr
  | b0 :: b1 :: b2 :: b3 :: len :: _ :: _ :: _ :: data =>
    if data.length = 8 then .ok (.rxframe ⟨wordOfBytes b0 b1 b2 b3, len, data⟩) else .error .recordLength
  | _ => .error .recordLength

/-- Decode a frame presented by its identifier (rows ID_PUB, ID_SVC, ID_RESERVED_DISC). An identifier of no row, a Service identifier
with the wrong marker, is a plain frame arrival. -/
def decodeIdent (p : Config.Params) (id : Ident) (len : Byte) (data : List Byte) : Except DecodeReject Instr :=
  if data.length ≠ 8 then .error .dataLength
  else if identDisc id = p.pubDisc then .ok (.idPub (identPrio id) (identDoid id) (identSrc id) len data)
  else if identDisc id = p.svcDisc then
    if markerOk p (identMarker id) then
      .ok (.idSvc ⟨identPrio id, identMarker id, identDst id, identSrc id, len⟩ data)
    else .ok (.rxframe ⟨extCanId id, len, data⟩)
  else .ok (.idReservedDisc (identPrio id) (identDisc id) (id.extractLsb' 0 24) len data)

/-- Decode a Service frame presented by its PCI byte (rows PCI_SF to PCI_RESERVED, R74). A wrong marker makes it a plain frame arrival. -/
def decodeService (p : Config.Params) (h : ServiceHead) : List Byte → Except DecodeReject Instr
  | pci :: b1 :: b2 :: rest =>
    if rest.length ≠ 5 then .error .dataLength
    else if markerOk p h.marker then
      match (hiNibble pci).toNat with
      | 0x0 => .ok (.pciSf h (loNibble pci) (b1 :: b2 :: rest))
      | 0x1 => .ok (.pciFf h (loNibble pci ++ b1) (b2 :: rest))
      | 0x2 => .ok (.pciCf h (loNibble pci) (b1 :: b2 :: rest))
      | 0x3 => .ok (.pciFc h (loNibble pci) b1 b2 rest)
      | _ => .ok (.pciReserved h (hiNibble pci) (loNibble pci) (b1 :: b2 :: rest))
    else .ok (.rxframe ⟨extCanId (svcIdent p h.prio h.marker h.dst h.src), h.len, pci :: b1 :: b2 :: rest⟩)
  | _ => .error .dataLength

/-- Decode the FlowControl byte of a TX-engine turn (rows FC_CONTINUE to FC_RESERVED, R76). -/
def decodeFlow (pci : Byte) : Except DecodeReject Instr :=
  if hiNibble pci ≠ 0x3 then .error .notFlowControl
  else match (loNibble pci).toNat with
    | 0 => .ok .fcContinue
    | 1 => .ok .fcWait
    | 2 => .ok .fcAbort
    | _ => .ok (.fcReserved (loNibble pci))

/-- Decode a port input. Total; what is no input of any port is rejected by name. -/
def decode (p : Config.Params) : PortInput → Except DecodeReject Instr
  | .command c => .ok (decodeCommand c)
  | .rx (.record image) => decodeRecord image
  | .rx (.ident id len data) => decodeIdent p id len data
  | .rx (.service h data) => decodeService p h data
  | .flow pci => decodeFlow pci
  | .tick => .ok .tick
  | .txstep => .ok .txstep
  | .poptx => .ok .poptx
  | .popmsg => .ok .popmsg
  | .poperr => .ok .poperr
  | .reset => .ok .reset

/-- A command with its opcode and operands (R80). -/
def commandInput (op : Word) (a b c d : Word) : PortInput := .command ⟨op, a, b, c, d⟩

/-- The 16-byte image of a frame record (R52, R53), padding transmitted as 0. -/
def frameImage (r : FrameRecord) : List Byte := wordBytes r.canId ++ [r.len, 0, 0, 0] ++ r.data

/-- Encode an instruction as the port input that carries it; operands a command does not use are 0. -/
def encode (p : Config.Params) : Instr → PortInput
  | .encpub a b c => commandInput 0x1 a b c 0
  | .decpub a => commandInput 0x2 a 0 0 0
  | .encsvc a b c => commandInput 0x3 a b c 0
  | .decsvc a => commandInput 0x4 a 0 0 0
  | .classify a b c d => commandInput 0x5 a b c d
  | .wrbuf a b => commandInput 0x6 a b 0 0
  | .send a b c d => commandInput 0x7 a b c d
  | .status => commandInput 0x8 0 0 0 0
  | .reservedOp0 => commandInput 0x0 0 0 0 0
  | .reservedOp9 => commandInput 0x9 0 0 0 0
  | .reservedOpA => commandInput 0xA 0 0 0 0
  | .reservedOpB => commandInput 0xB 0 0 0 0
  | .reservedOpC => commandInput 0xC 0 0 0 0
  | .reservedOpD => commandInput 0xD 0 0 0 0
  | .reservedOpE => commandInput 0xE 0 0 0 0
  | .reservedOpF => commandInput 0xF 0 0 0 0
  | .reservedCwHigh cw => commandInput cw 0 0 0 0
  | .idPub prio doid src len data => .rx (.ident (pubIdent p prio doid src) len data)
  | .idSvc h data => .rx (.ident (svcIdent p h.prio h.marker h.dst h.src) h.len data)
  | .idReservedDisc prio disc low len data => .rx (.ident (prio ++ disc ++ low) len data)
  | .pciSf h sfDl rest => .rx (.service h (pciByte 0x0 sfDl :: rest))
  | .pciFf h ffDl rest => .rx (.service h (pciByte 0x1 (ffDl.extractLsb' 8 4) :: ffDl.extractLsb' 0 8 :: rest))
  | .pciCf h sn rest => .rx (.service h (pciByte 0x2 sn :: rest))
  | .pciFc h fs bs st rest => .rx (.service h (pciByte 0x3 fs :: bs :: st :: rest))
  | .pciReserved h nib low rest => .rx (.service h (pciByte nib low :: rest))
  | .fcContinue => .flow 0x30
  | .fcWait => .flow 0x31
  | .fcAbort => .flow 0x32
  | .fcReserved fs => .flow (pciByte 0x3 fs)
  | .rxframe r => .rx (.record (frameImage r))
  | .tick => .tick
  | .txstep => .txstep
  | .poptx => .poptx
  | .popmsg => .popmsg
  | .poperr => .poperr
  | .reset => .reset

/-- Byte k of a table word, bit 0 its least significant bit. -/
def tableByte (w k : Nat) : Byte := BitVec.ofNat 8 (w / 2 ^ (8 * k))

/-- 32-bit word k of a table word. -/
def tableWord32 (w k : Nat) : Word := BitVec.ofNat 32 (w / 2 ^ (32 * k))

/-- Whether a 32-bit table word is an identifier of one of the table's ID29 rows: no more than 29 bits, and a discriminator and marker
that some row has, but no command word (a command word with CW[31:4] = 0 is a command). -/
def tableIsIdent (p : Config.Params) (w : Nat) : Bool :=
  decide (16 ≤ w) && decide (w < 2 ^ 29) &&
    (identDisc (BitVec.ofNat 29 w) != p.svcDisc || markerOk p (identMarker (BitVec.ofNat 29 w)))

/-- The port input that stands for a table word (log 9): by the row's format, a PCI byte (8 bits), a flow-status byte (8 bits with the
mask 0xFF of FC_CONTINUE, FC_WAIT and FC_ABORT; 16 bits for FC_RESERVED), an identifier or a command word (32 bits), a frame image
(128 bits), a whole command of five words (160 bits). Operand bits the table does not number are 0. -/
def tableInput (p : Config.Params) (nbits w : Nat) : PortInput :=
  let data := (List.range 8).map (tableByte w)
  if nbits ≤ 8 then
    if w = 0x30 ∨ w = 0x31 ∨ w = 0x32 then .flow (tableByte w 0)
    else .rx (.service ⟨0, p.svcMarker, 0, 0, 0⟩ data)
  else if nbits ≤ 16 then
    if hiNibble (tableByte w 0) = 0x3 then .flow (tableByte w 0)
    else .rx (.service ⟨0, p.svcMarker, 0, 0, 0⟩ data)
  else if nbits ≤ 32 then
    if tableIsIdent p w then .rx (.ident (BitVec.ofNat 29 w) 0 (List.replicate 8 0))
    else .command ⟨tableWord32 w 0, 0, 0, 0, 0⟩
  else if nbits ≤ 128 then .rx (.record ((List.range 16).map (tableByte w)))
  else .command ⟨tableWord32 w 0, tableWord32 w 1, tableWord32 w 2, tableWord32 w 3, tableWord32 w 4⟩

/-- The instruction the decoder reads from a table word, under the parameters after reset; `none` where the decoder refuses. -/
def decodeTableWord (nbits w : Nat) : Option Instr :=
  (decode Config.params (tableInput Config.params nbits w)).toOption

end Sys2Proof
end

