-- ==== Sys2Proof/Machine/State.lean ====
section
/-! DEFINITION. The state of the block (10_state.md R36), the records of its queues (20_memory.md R52, R54, R56), the model's ports, and the reasons a step can stop. -/

namespace Sys2Proof.Machine

/-- The error kinds of 60_exceptions.md R210; code 7 is never produced, so the type lacks it. -/
inductive ErrKind where
  | success
  | invalidField
  | malformedIdentifier
  | truncatedFrame
  | unknownFrameType
  | flowControlTimeout
  | aborted
  deriving DecidableEq, Repr

/-- TX_STATE (R30); the encodings 5 to 7 are never held, so the type lacks them (U9). -/
inductive TxState where
  | idle
  | waitFc
  | sendCf
  | sepDelay
  | waitPause
  deriving DecidableEq, Repr

/-- The kind bit of a message record (R54). -/
inductive MsgKind where
  | publication
  | service
  deriving DecidableEq, Repr

/-- A message record, one MSGQ entry (R54). -/
structure Message where
  kind : MsgKind
  prio : BitVec 3
  a : BitVec 16
  src : BitVec 8
  len : BitVec 12
  bytes : List Byte
  deriving DecidableEq, Repr

/-- An error report record, one ERRQ entry (R56). -/
structure ErrRecord where
  code : ErrKind
  nibble : BitVec 4
  canId : Word
  len : Byte
  deriving DecidableEq, Repr

/-- The answer of the command port (R80): the status word as its error kind, and the result words. -/
structure Response where
  s : ErrKind
  y0 : Word
  y1 : Word
  y2 : Word
  y3 : Word
  deriving DecidableEq, Repr

/-- What a step leaves on the block's output side (log 4): nothing; the answer "no step", when the enabling condition of the action
failed (R58, R170, R171, R191); a command's response (R80); a popped record (R58). -/
inductive PortOut where
  | nothing
  | noStep
  | response (r : Response)
  | frame (r : FrameRecord)
  | message (m : Message)
  | report (e : ErrRecord)
  deriving DecidableEq, Repr

/-- A byte buffer (R50): cells with strictly rising indices; an index that is not listed holds no value, the written bit of R31. -/
abbrev Memory := List Host.Cell

/-- The reassembly context (R24). -/
structure Reassembly where
  active : Bool
  size : BitVec 12
  count : BitVec 12
  lastIdx : BitVec 4
  prio : BitVec 3
  dst : BitVec 8
  src : BitVec 8
  buf : Memory
  deriving DecidableEq, Repr

/-- The FC register (R29). -/
structure FlowControl where
  valid : Bool
  flag : BitVec 4
  bs : BitVec 8
  st : BitVec 8
  deriving DecidableEq, Repr

/-- The TX engine's registers and TX_BUF (R30). -/
structure TxEngine where
  state : TxState
  id : Ident
  len : BitVec 12
  pos : BitVec 12
  idx : BitVec 4
  bs : BitVec 8
  st : BitVec 8
  blkCnt : BitVec 8
  timer : BitVec 32
  done : Bool
  result : ErrKind
  buf : Memory
  deriving DecidableEq, Repr

/-- The state vector of R36 (`ra`, `fc`, `tx`, the three queues, oldest entry first), the configuration of R6 and R7 (`cfg`, which no
step writes; log 1), and the model's own ports: inputs waiting on the command and RX ports, oldest first, the turns to come (log 2),
and what the last step left on the output side (log 4). -/
structure State where
  cfg : Config.Params
  ra : Reassembly
  fc : FlowControl
  tx : TxEngine
  txq : List FrameRecord
  msgq : List Message
  errq : List ErrRecord
  cmdPort : List Command
  rxPort : List RxInput
  sched : List Turn
  out : PortOut
  deriving DecidableEq, Repr

/-- Why the machine stops with a fault. -/
inductive Fault where
  /-- Raised by SEND when one of its L bytes was never written by a WRBUF since reset (R178, R31), and by the transition of SEND_CF
  on such a byte, which no reachable state does. Safe: the hardware sends whatever TX_BUF holds. -/
  | txByteUnwritten
  /-- Raised by the delivery of a reassembled message when a byte below RA_SIZE was never written, which no reachable state does (R27).
  Safe: the hardware copies an unspecified byte. -/
  | raByteUnwritten
  deriving DecidableEq, Repr

/-- Why the machine refuses. -/
inductive Refusal where
  /-- Raised by exec's arm for an instruction without a meaning; no arm does. Safe. -/
  | notModelled (mnemonic : String)
  /-- Raised by step on a port input that the decoder rejects: a byte list of a length no port carries, or a flow turn on a byte that is
  no FlowControl byte. Safe: the hardware has no such input. -/
  | undecodable (reason : DecodeReject)
  deriving DecidableEq, Repr

/-- The reassembly context after reset (R240); RA_BUF is unspecified, so nothing is listed (R241). -/
def Reassembly.reset : Reassembly where
  active := false
  size := 0
  count := 0
  lastIdx := 0
  prio := 0
  dst := 0
  src := 0
  buf := []

/-- The FC register after reset (R240). -/
def FlowControl.reset : FlowControl where
  valid := false
  flag := 0
  bs := 0
  st := 0

/-- The TX engine after reset (R240); TX_BUF is unspecified, so every byte is unwritten (R241). -/
def TxEngine.reset : TxEngine where
  state := .idle
  id := 0
  len := 0
  pos := 0
  idx := 0
  bs := 0
  st := 0
  blkCnt := 0
  timer := 0
  done := false
  result := .success
  buf := []

/-- The block right after reset (R240, R241), with nothing on its ports. -/
def State.reset : State where
  cfg := Config.params
  ra := .reset
  fc := .reset
  tx := .reset
  txq := []
  msgq := []
  errq := []
  cmdPort := []
  rxPort := []
  sched := []
  out := .nothing

end Sys2Proof.Machine
end

