-- ==== Sys2Proof/Machine/Ops.lean ====
section
/-! DEFINITION. The shared operations: named updates of the state, the byte buffers (20_memory.md R50), the queues (R58), and taking an error (60_exceptions.md R217). -/

namespace Sys2Proof.Machine

/-- The outcome of a meaning. -/
abbrev Result := Host.Outcome State Fault Refusal

/-! ### Named updates -/

/-- The state with another output. -/
def State.withOut (s : State) (o : PortOut) : State := { s with out := o }

/-- The state with another reassembly context. -/
def State.withRa (s : State) (ra : Reassembly) : State := { s with ra := ra }

/-- The state with another FC register, written as a whole tuple (R28). -/
def State.withFc (s : State) (fc : FlowControl) : State := { s with fc := fc }

/-- The state with another TX engine. -/
def State.withTx (s : State) (tx : TxEngine) : State := { s with tx := tx }

/-- Append a frame to TXQ. -/
def State.pushTxq (s : State) (f : FrameRecord) : State := { s with txq := s.txq ++ [f] }

/-- Append a message to MSGQ. -/
def State.pushMsgq (s : State) (m : Message) : State := { s with msgq := s.msgq ++ [m] }

/-- Append a report to ERRQ. -/
def State.pushErrq (s : State) (e : ErrRecord) : State := { s with errq := s.errq ++ [e] }

/-- The action has no step: its enabling condition fails, every write is withheld, and the input stays on its port (R58, R170, R171,
R191; log 3). -/
def noStep (s : State) : Result := .next (s.withOut .noStep)

/-! ### Byte buffers -/

/-- Read one byte of a buffer; `none` where no byte was written. -/
def Memory.read : Memory → Nat → Option Byte
  | [], _ => none
  | (k, v) :: m, i => if k = i then some v else Memory.read m i

/-- Write one byte of a buffer, keeping the indices strictly rising. -/
def Memory.write : Memory → Nat → Byte → Memory
  | [], i, b => [(i, b)]
  | (k, v) :: m, i, b =>
    if i < k then (i, b) :: (k, v) :: m
    else if i = k then (i, b) :: m
    else (k, v) :: Memory.write m i b

/-- Read n bytes from index i upward (MemRead of R9); `none` if one of them was never written. -/
def Memory.readBytes (m : Memory) (i : Nat) : Nat → Option (List Byte)
  | 0 => some []
  | n + 1 =>
    match Memory.read m i, Memory.readBytes m (i + 1) n with
    | some b, some bs => some (b :: bs)
    | _, _ => none

/-- Write bytes from index i upward (MemWrite of R9). -/
def Memory.writeBytes (m : Memory) (i : Nat) : List Byte → Memory
  | [] => m
  | b :: bs => Memory.writeBytes (Memory.write m i b) (i + 1) bs

/-- Every index of the list is above `low` and they rise strictly. -/
def Memory.risingAbove (low : Nat) : Memory → Bool
  | [] => true
  | (k, _) :: m => decide (low < k) && Memory.risingAbove k m

/-- The canonical form: indices strictly rising, each below BUF_SIZE (R50). -/
def Memory.wf (m : Memory) : Bool :=
  (match m with
    | [] => true
    | (k, _) :: rest => Memory.risingAbove k rest) && m.all fun c => decide (c.1 < Config.bufSize)

/-! ### Queues -/

/-- Whether a queue of the given depth takes one more entry (R58). The length is looked at first: an empty queue takes one at every depth. -/
def hasRoom (depth : Config.Depth) : Nat → Bool
  | 0 => true
  | n + 1 =>
    match depth with
    | .unbounded => true
    | .bounded lessOne => decide (n + 1 ≤ lessOne)

/-- Push to TXQ is enabled. -/
def State.txqRoom (s : State) : Bool := hasRoom s.cfg.qTx s.txq.length

/-- Push to MSGQ is enabled. -/
def State.msgqRoom (s : State) : Bool := hasRoom s.cfg.qMsg s.msgq.length

/-- Push to ERRQ is enabled. -/
def State.errqRoom (s : State) : Bool := hasRoom s.cfg.qErr s.errq.length

/-- A frame record to transmit (R52): extended-identifier flag set, len the number of bytes, data padded with 0 to eight bytes. -/
def outFrame (id : Ident) (bytes : List Byte) : FrameRecord where
  canId := extCanId id
  len := BitVec.ofNat 8 bytes.length
  data := bytes ++ List.replicate (Config.maxDlc - bytes.length) 0

/-! ### Taking an error -/

/-- The number of an error kind (R210). -/
def errCode : ErrKind → BitVec 3
  | .success => 0
  | .invalidField => 1
  | .malformedIdentifier => 2
  | .truncatedFrame => 3
  | .unknownFrameType => 4
  | .flowControlTimeout => 5
  | .aborted => 6

/-- A command answers with success and its results (R80, R84). -/
def respond (s : State) (y0 y1 y2 y3 : Word) : Result := .next (s.withOut (.response ⟨.success, y0, y1, y2, y3⟩))

/-- A command error (R211, R217): S takes the code, Y0 to Y3 are 0, nothing else is written. -/
def raiseCommand (s : State) (e : ErrKind) : Result := .next (s.withOut (.response ⟨e, 0, 0, 0, 0⟩))

/-- A received-frame error (R141, R217): one ERRQ record and nothing else; a full ERRQ has no step (R58). -/
def reportFrameError (s : State) (e : ErrKind) (nibble : BitVec 4) (r : FrameRecord) : Result :=
  if s.errqRoom then .next ((s.pushErrq ⟨e, nibble, r.canId, r.len⟩).withOut .nothing) else noStep s

/-- Deliver a message to MSGQ; a full MSGQ has no step (R58). -/
def deliver (s : State) (m : Message) : Result :=
  if s.msgqRoom then .next ((s.pushMsgq m).withOut .nothing) else noStep s

end Sys2Proof.Machine
end

