-- ==== Sys2Proof/Machine/Operands.lean ====
section
/-! DEFINITION. Operand ranges (30_encoding.md R83), CLASSIFY's data bytes (R83), result assembly (R84), the TX_STATE code (10_state.md R30), and the separation time (R77, R175). -/

namespace Sys2Proof.Machine

/-- A priority operand lies in 0 to 7 (R83). -/
def prioInRange (w : Word) : Bool := decide (w.toNat ≤ 7)

/-- A data-object id operand lies in 0 to 65535 (R83; 90_conflicts.md C1). -/
def doidInRange (w : Word) : Bool := decide (w.toNat ≤ 65535)

/-- An address operand lies in 0 to 255 (R83). -/
def addrInRange (w : Word) : Bool := decide (w.toNat ≤ 255)

/-- A byte operand lies in 0 to 255 (R83). -/
def byteInRange (w : Word) : Bool := decide (w.toNat ≤ 255)

/-- A TX_BUF index operand lies in 0 to 4094 (R83). -/
def indexInRange (w : Word) : Bool := decide (w.toNat ≤ 4094)

/-- A length operand lies in 0 to 4095 (R83; 90_conflicts.md C2). -/
def lengthInRange (w : Word) : Bool := decide (w.toNat ≤ 4095)

/-- The operands of SEND are in range (R171). -/
def sendInRange (a b c d : Word) : Bool := prioInRange a && addrInRange b && addrInRange c && lengthInRange d

/-- PRIO of an operand (A[2:0]). -/
def prioOf (w : Word) : BitVec 3 := w.extractLsb' 0 3

/-- DOID of an operand (B[15:0]). -/
def doidOf (w : Word) : BitVec 16 := w.extractLsb' 0 16

/-- An address or a byte of an operand (bits 7:0). -/
def addrOf (w : Word) : BitVec 8 := w.extractLsb' 0 8

/-- CLASSIFY's data bytes: byte k is C[8k+7:8k] for k in 0 to 3, then D (R83). -/
def operandData (c d : Word) : List Byte := wordBytes c ++ wordBytes d

/-- Identifier fields in Y1 (R84): Y1[26:24] = PRIO, Y1[23:8] = a, Y1[7:0] = SRC. -/
def fieldsWord (prio : BitVec 3) (a : BitVec 16) (src : BitVec 8) : Word := (0#5) ++ prio ++ a ++ src

/-- A one-bit result, zero-extended (R84). -/
def boolWord (b : Bool) : Word := if b then 1 else 0

/-- The code of TX_STATE (R30). -/
def txStateCode : TxState → BitVec 3
  | .idle => 0
  | .waitFc => 1
  | .sendCf => 2
  | .sepDelay => 3
  | .waitPause => 4

/-- The separation time in ticks of 100 microseconds (R77, R175). -/
def stTicks (v : Byte) : Nat :=
  if v.toNat ≤ 0x7F then 10 * v.toNat
  else if 0xF1 ≤ v.toNat ∧ v.toNat ≤ 0xF9 then (loNibble v).toNat
  else 0

end Sys2Proof.Machine
end

