-- ==== Sys2Proof/Machine/Flags.lean ====
section
/-! DEFINITION. The status flags RA_ACTIVE, FC_VALID and TX_DONE (10_state.md R33): what sets and clears each, and the conditions that read them. -/

namespace Sys2Proof.Machine

/-- A send ends with an outcome: TX_DONE and TX_RESULT are written and TX_STATE returns to IDLE (R184, R187, R188; R217). -/
def TxEngine.finishSend (t : TxEngine) (e : ErrKind) : TxEngine := { t with state := .idle, done := true, result := e }

/-- A SEND with an operand out of range: TX_DONE and TX_RESULT record it and no frame is sent (R171). -/
def TxEngine.rejectSend (t : TxEngine) : TxEngine := { t with done := true, result := .invalidField }

/-- A SEND is accepted: TX_ID takes the identifier and the outcome of the last send is cleared (R171). -/
def TxEngine.beginSend (t : TxEngine) (id : Ident) : TxEngine := { t with id := id, done := false, result := .success }

/-- Enter WAIT_FC with a fresh timeout (R173, R184, R186). -/
def TxEngine.enterWaitFc (t : TxEngine) : TxEngine :=
  { t with state := .waitFc, timer := BitVec.ofNat 32 Config.fcTimeoutTicks }

/-- Whether an inbound FlowControl tuple is stored (R148): in WAIT_FC, or in WAIT_PAUSE under REWAIT. -/
def State.acceptsFlow (s : State) : Bool :=
  s.tx.state == .waitFc || (s.tx.state == .waitPause && s.cfg.waitPolicy == .rewait)

/-- Clear FC_VALID: the tuple is consumed (R180); the other fields keep their values. -/
def FlowControl.consume (f : FlowControl) : FlowControl := { f with valid := false }

/-- Whether the TX engine can consume a stored tuple (R180), whatever TX_TIMER holds. -/
def State.flowReady (s : State) : Bool := s.tx.state == .waitFc && s.fc.valid

/-- Whether TX_STATE is a state in which TX_TIMER counts (R190). -/
def TxState.timed : TxState → Bool
  | .waitFc | .sepDelay | .waitPause => true
  | .idle | .sendCf => false

/-- Whether the Consecutive frame's index is the one expected and a transfer is in progress (R145). -/
def Reassembly.accepts (ra : Reassembly) (sn : BitVec 4) : Bool := ra.active && sn == ra.lastIdx + 1

end Sys2Proof.Machine
end

