-- ==== Sys2Proof/Machine/Classifier.lean ====
section
/-! DEFINITION. The frame classifier (41_classifier.md), a pure function, and the command CLASSIFY. -/

namespace Sys2Proof.Machine

/-- A classified frame, each variant with the fields R123 to R128 give it and nothing else (R131). -/
inductive Variant where
  | pubSingle (prio : BitVec 3) (doid : BitVec 16) (src : BitVec 8) (payload : List Byte)
  | svcSingle (prio : BitVec 3) (dst src : BitVec 8) (payload : List Byte)
  | svcFirst (prio : BitVec 3) (dst src : BitVec 8) (ffDl : BitVec 12) (payload : List Byte)
  | svcConsecutive (prio : BitVec 3) (dst src : BitVec 8) (sn : BitVec 4) (payload : List Byte)
  | svcFlowControl (prio : BitVec 3) (dst src : BitVec 8) (fs : BitVec 4) (bs st : Byte)
  deriving DecidableEq, Repr

/-- The family the identifier stage finds (R121), with the identifier fields of R123 and R124. -/
inductive Family where
  | pub (prio : BitVec 3) (doid : BitVec 16) (src : BitVec 8)
  | svc (prio : BitVec 3) (dst src : BitVec 8)
  deriving DecidableEq, Repr

/-- The identifier stage (R121): EFF flag, bits 30:29, DISC, marker, in that order. -/
def identStage (p : Config.Params) (canId : Word) : Except ErrKind Family :=
  let id : Ident := canId.extractLsb' 0 29
  if canId.extractLsb' 31 1 = 0 then .error .malformedIdentifier
  else if canId.extractLsb' 29 2 ≠ 0 then .error .malformedIdentifier
  else if identDisc id = p.pubDisc then .ok (.pub (identPrio id) (identDoid id) (identSrc id))
  else if identDisc id = p.svcDisc then
    if markerOk p (identMarker id) then .ok (.svc (identPrio id) (identDst id) (identSrc id))
    else .error .malformedIdentifier
  else .error .malformedIdentifier

/-- Data bytes i up to but excluding j (R9). -/
def slice (data : List Byte) (i j : Nat) : List Byte := (data.take j).drop i

/-- Service-Single (R125). -/
def classifySingle (prio : BitVec 3) (dst src : BitVec 8) (len : Nat) (data : List Byte) : Except ErrKind Variant :=
  let sfDl := (loNibble (byteAt data 0)).toNat
  if len < 1 + sfDl then .error .truncatedFrame
  else .ok (.svcSingle prio dst src (slice data 1 (1 + sfDl)))

/-- Service-First (R126). -/
def classifyFirst (prio : BitVec 3) (dst src : BitVec 8) (len : Nat) (data : List Byte) : Except ErrKind Variant :=
  if len < 2 then .error .truncatedFrame
  else .ok (.svcFirst prio dst src (loNibble (byteAt data 0) ++ byteAt data 1) (slice data 2 len))

/-- Service-Consecutive (R127). -/
def classifyConsecutive (prio : BitVec 3) (dst src : BitVec 8) (len : Nat) (data : List Byte) : Except ErrKind Variant :=
  .ok (.svcConsecutive prio dst src (loNibble (byteAt data 0)) (slice data 1 len))

/-- Service-FlowControl (R128). -/
def classifyFlow (prio : BitVec 3) (dst src : BitVec 8) (len : Nat) (data : List Byte) : Except ErrKind Variant :=
  if len < 3 then .error .truncatedFrame
  else .ok (.svcFlowControl prio dst src (loNibble (byteAt data 0)) (byteAt data 1) (byteAt data 2))

/-- Service frames (R124): no byte 0, or the sub-type of its high nibble (R74); the other nibbles are R129. -/
def classifyService (prio : BitVec 3) (dst src : BitVec 8) (len : Nat) (data : List Byte) : Except ErrKind Variant :=
  if len = 0 then .error .truncatedFrame
  else match (hiNibble (byteAt data 0)).toNat with
    | 0x0 => classifySingle prio dst src len data
    | 0x1 => classifyFirst prio dst src len data
    | 0x2 => classifyConsecutive prio dst src len data
    | 0x3 => classifyFlow prio dst src len data
    | _ => .error .unknownFrameType

/-- classify (R120): the length stage (R122), the identifier stage (R121), then the family. -/
def classifyFrame (p : Config.Params) (canId : Word) (len : Nat) (data : List Byte) : Except ErrKind Variant :=
  if Config.maxDlc < len then .error .invalidField
  else match identStage p canId with
    | .error e => .error e
    | .ok (.pub prio doid src) => .ok (.pubSingle prio doid src (slice data 0 len))
    | .ok (.svc prio dst src) => classifyService prio dst src len data

/-- The response of CLASSIFY for a variant (R84, R87, R130). -/
def variantResponse (s : State) : Variant → Result
  | .pubSingle prio doid src payload =>
    respond s 0 (fieldsWord prio doid src) (BitVec.ofNat 32 payload.length) (BitVec.ofNat 32 payload.length)
  | .svcSingle prio dst src payload =>
    respond s 1 (fieldsWord prio (dst.setWidth 16) src) (BitVec.ofNat 32 payload.length) (BitVec.ofNat 32 payload.length)
  | .svcFirst prio dst src ffDl payload =>
    respond s 2 (fieldsWord prio (dst.setWidth 16) src) (ffDl.setWidth 32) (BitVec.ofNat 32 payload.length)
  | .svcConsecutive prio dst src sn payload =>
    respond s 3 (fieldsWord prio (dst.setWidth 16) src) (sn.setWidth 32) (BitVec.ofNat 32 payload.length)
  | .svcFlowControl prio dst src fs bs st =>
    respond s 4 (fieldsWord prio (dst.setWidth 16) src) ((0#8) ++ st ++ bs ++ fs.setWidth 8) 0

/-- CLASSIFY (R130): A = can_id, B = len, C and D = data bytes. -/
def execClassify (a b c d : Word) (s : State) : Result :=
  match classifyFrame s.cfg a b.toNat (operandData c d) with
  | .error e => raiseCommand s e
  | .ok v => variantResponse s v

end Sys2Proof.Machine
end

