-- ==== Sys2Proof/Machine/Codec.lean ====
section
/-! DEFINITION. The identifier codec (40_codec.md): ENCPUB, DECPUB, ENCSVC, DECSVC. They read and write no state of the block (R105). -/

namespace Sys2Proof.Machine

/-- ENCPUB (R100). -/
def execEncpub (a b c : Word) (s : State) : Result :=
  if prioInRange a && doidInRange b && addrInRange c then
    respond s ((pubIdent s.cfg (prioOf a) (doidOf b) (addrOf c)).setWidth 32) 0 0 0
  else raiseCommand s .invalidField

/-- DECPUB (R101): width first, then DISC. -/
def execDecpub (a : Word) (s : State) : Result :=
  let id : Ident := a.extractLsb' 0 29
  if 2 ^ 29 ≤ a.toNat then raiseCommand s .malformedIdentifier
  else if identDisc id ≠ s.cfg.pubDisc then raiseCommand s .malformedIdentifier
  else respond s ((identPrio id).setWidth 32) ((identDoid id).setWidth 32) ((identSrc id).setWidth 32) 0

/-- ENCSVC (R102). -/
def execEncsvc (a b c : Word) (s : State) : Result :=
  if prioInRange a && addrInRange b && addrInRange c then
    respond s ((svcIdent s.cfg (prioOf a) s.cfg.svcMarker (addrOf b) (addrOf c)).setWidth 32) 0 0 0
  else raiseCommand s .invalidField

/-- DECSVC (R103): width, then DISC, then the marker under STRICT_MARKER. -/
def execDecsvc (a : Word) (s : State) : Result :=
  let id : Ident := a.extractLsb' 0 29
  if 2 ^ 29 ≤ a.toNat then raiseCommand s .malformedIdentifier
  else if identDisc id ≠ s.cfg.svcDisc then raiseCommand s .malformedIdentifier
  else if markerOk s.cfg (identMarker id) = false then raiseCommand s .malformedIdentifier
  else respond s ((identPrio id).setWidth 32) ((identDst id).setWidth 32) ((identSrc id).setWidth 32) 0

end Sys2Proof.Machine
end

