-- ==== Sys2Proof/Machine/Queues.lean ====
section
/-! DEFINITION. The host's pops (20_memory.md R58): remove and return the oldest entry; enabled only when the queue is not empty. -/

namespace Sys2Proof.Machine

/-- POPTX (R58). -/
def execPoptx (s : State) : Result :=
  match s.txq with
  | [] => noStep s
  | f :: rest => .next ({ s with txq := rest }.withOut (.frame f))

/-- POPMSG (R58). -/
def execPopmsg (s : State) : Result :=
  match s.msgq with
  | [] => noStep s
  | m :: rest => .next ({ s with msgq := rest }.withOut (.message m))

/-- POPERR (R58). -/
def execPoperr (s : State) : Result :=
  match s.errq with
  | [] => noStep s
  | e :: rest => .next ({ s with errq := rest }.withOut (.report e))

end Sys2Proof.Machine
end

