-- ==== Sys2Proof/Machine/Receive.lean ====
section
/-! DEFINITION. The receive path (42_reassembly.md): the arms R141 to R149, RXFRAME, and the arrivals of the table's ID29 and PCI_ rows (log 6). -/

namespace Sys2Proof.Machine

/-- The nibble of an error report (R56): data byte 0 bits 7:4 when the identifier stage passed for a Service identifier and len is at
least 1, else 0. A len above 8 fails before the identifier stage. -/
def errorNibble (p : Config.Params) (r : FrameRecord) : BitVec 4 :=
  if Config.maxDlc < r.len.toNat then 0
  else match identStage p r.canId with
    | .ok (.svc _ _ _) => if 1 ≤ r.len.toNat then hiNibble (byteAt r.data 0) else 0
    | _ => 0

/-- The synthetic Continue reply (R144): ENCSVC(prio, src, dst) of the First frame's own fields, data 0x30, 0x00, 0x00. -/
def flowReply (p : Config.Params) (prio : BitVec 3) (dst src : BitVec 8) : FrameRecord :=
  outFrame (svcIdent p prio p.svcMarker src dst) [0x30, 0x00, 0x00]

/-- First-frame arm (R143): a new transfer replaces the context and the reply is pushed in the same step. -/
def armFirst (s : State) (prio : BitVec 3) (dst src : BitVec 8) (ffDl : BitVec 12) (payload : List Byte) : Result :=
  if s.txqRoom then
    let k := min payload.length ffDl.toNat
    let ra : Reassembly :=
      { active := true, size := ffDl, count := BitVec.ofNat 12 k, lastIdx := 0, prio := prio, dst := dst, src := src,
        buf := Memory.writeBytes s.ra.buf 0 (payload.take k) }
    .next (((s.withRa ra).pushTxq (flowReply s.cfg prio dst src)).withOut .nothing)
  else noStep s

/-- The reassembly context after an accepted Consecutive frame, before the completion test (R146). -/
def Reassembly.append (ra : Reassembly) (sn : BitVec 4) (payload : List Byte) : Reassembly :=
  let k := min payload.length (ra.size.toNat - ra.count.toNat)
  { ra with
    count := BitVec.ofNat 12 (ra.count.toNat + k)
    lastIdx := sn
    buf := Memory.writeBytes ra.buf ra.count.toNat (payload.take k) }

/-- The message of a completed transfer (R146): the First frame's identifier fields and RA_BUF[0..RA_SIZE). -/
def Reassembly.message (ra : Reassembly) (bytes : List Byte) : Message where
  kind := .service
  prio := ra.prio
  a := ra.dst.setWidth 16
  src := ra.src
  len := ra.size
  bytes := bytes

/-- The frame that completes a transfer (R146): the message is copied out of RA_BUF into MSGQ and the context goes idle; a full MSGQ
has no step (R58). -/
def completeTransfer (s : State) (ra : Reassembly) : Result :=
  if s.msgqRoom then
    match Memory.readBytes ra.buf 0 ra.size.toNat with
    | some bytes => .next (((s.withRa { ra with active := false }).pushMsgq (ra.message bytes)).withOut .nothing)
    | none => .fault .raByteUnwritten
  else noStep s

/-- Consecutive-frame arms: acceptance test (R145), accept (R146), drop (R147). -/
def armConsecutive (s : State) (sn : BitVec 4) (payload : List Byte) : Result :=
  if s.ra.accepts sn then
    if (s.ra.append sn payload).count = s.ra.size then completeTransfer s (s.ra.append sn payload)
    else .next ((s.withRa (s.ra.append sn payload)).withOut .nothing)
  else .next (s.withOut .nothing)

/-- FlowControl arm (R148): store the tuple while the TX engine waits for one, else discard. -/
def armFlow (s : State) (fs : BitVec 4) (bs st : Byte) : Result :=
  if s.acceptsFlow then .next ((s.withFc ⟨true, fs, bs, st⟩).withOut .nothing) else .next (s.withOut .nothing)

/-- The arms of RXFRAME (R140 to R149) on a classified frame. -/
def receive (s : State) (r : FrameRecord) (nibble : BitVec 4) : Except ErrKind Variant → Result
  | .error e => reportFrameError s e nibble r
  | .ok (.pubSingle prio doid src payload) =>
    deliver s ⟨.publication, prio, doid, src, BitVec.ofNat 12 payload.length, payload⟩
  | .ok (.svcSingle prio dst src payload) =>
    deliver s ⟨.service, prio, dst.setWidth 16, src, BitVec.ofNat 12 payload.length, payload⟩
  | .ok (.svcFirst prio dst src ffDl payload) => armFirst s prio dst src ffDl payload
  | .ok (.svcConsecutive _ _ _ sn payload) => armConsecutive s sn payload
  | .ok (.svcFlowControl _ _ _ fs bs st) => armFlow s fs bs st

/-- RXFRAME (R140). -/
def execRxframe (r : FrameRecord) (s : State) : Result :=
  receive s r (errorNibble s.cfg r) (classifyFrame s.cfg r.canId r.len.toNat r.data)

/-- The record of a Service frame with the given identifier fields. -/
def serviceRecord (p : Config.Params) (h : ServiceHead) (data : List Byte) : FrameRecord :=
  ⟨extCanId (svcIdent p h.prio h.marker h.dst h.src), h.len, data⟩

/-- A Service frame whose identifier is good: the length stage (R122), a missing byte 0 (R124), then its classification. -/
def receiveService (s : State) (h : ServiceHead) (data : List Byte) (v : Except ErrKind Variant) : Result :=
  let r := serviceRecord s.cfg h data
  if Config.maxDlc < h.len.toNat then reportFrameError s .invalidField 0 r
  else if h.len = 0 then reportFrameError s .truncatedFrame 0 r
  else receive s r (hiNibble (byteAt data 0)) v

/-- ID_PUB (R71): a frame with a Publication identifier arrives (R123, R142). -/
def execIdPub (prio : BitVec 3) (doid : BitVec 16) (src : BitVec 8) (len : Byte) (data : List Byte) (s : State) : Result :=
  let r : FrameRecord := ⟨extCanId (pubIdent s.cfg prio doid src), len, data⟩
  if Config.maxDlc < len.toNat then reportFrameError s .invalidField 0 r
  else receive s r 0 (.ok (.pubSingle prio doid src (slice data 0 len.toNat)))

/-- ID_SVC (R72): a frame with a Service identifier arrives; its sub-type is read from byte 0 (R124). -/
def execIdSvc (h : ServiceHead) (data : List Byte) (s : State) : Result :=
  receiveService s h data (classifyService h.prio h.dst h.src h.len.toNat data)

/-- ID_RESERVED_DISC (R79): a frame with a discriminator of neither family arrives: MalformedIdentifier (R121, R141). -/
def execIdReservedDisc (prio : BitVec 3) (disc : BitVec 2) (low : BitVec 24) (len : Byte) (data : List Byte) (s : State) : Result :=
  let r : FrameRecord := ⟨extCanId (prio ++ disc ++ low), len, data⟩
  if Config.maxDlc < len.toNat then reportFrameError s .invalidField 0 r
  else reportFrameError s .malformedIdentifier 0 r

/-- PCI_SF (R125): a Single frame arrives (R149). -/
def execPciSf (h : ServiceHead) (sfDl : BitVec 4) (rest : List Byte) (s : State) : Result :=
  let data := pciByte 0x0 sfDl :: rest
  receiveService s h data (classifySingle h.prio h.dst h.src h.len.toNat data)

/-- PCI_FF (R126): a First frame arrives (R143, R144). -/
def execPciFf (h : ServiceHead) (ffDl : BitVec 12) (rest : List Byte) (s : State) : Result :=
  let data := pciByte 0x1 (ffDl.extractLsb' 8 4) :: ffDl.extractLsb' 0 8 :: rest
  receiveService s h data (classifyFirst h.prio h.dst h.src h.len.toNat data)

/-- PCI_CF (R127): a Consecutive frame arrives (R145 to R147). -/
def execPciCf (h : ServiceHead) (sn : BitVec 4) (rest : List Byte) (s : State) : Result :=
  let data := pciByte 0x2 sn :: rest
  receiveService s h data (classifyConsecutive h.prio h.dst h.src h.len.toNat data)

/-- PCI_FC (R128): a FlowControl frame arrives (R148). -/
def execPciFc (h : ServiceHead) (fs : BitVec 4) (bs st : Byte) (rest : List Byte) (s : State) : Result :=
  let data := pciByte 0x3 fs :: bs :: st :: rest
  receiveService s h data (classifyFlow h.prio h.dst h.src h.len.toNat data)

/-- PCI_RESERVED (R129): a Service frame with a reserved sub-type arrives: UnknownFrameType (R78, R141). -/
def execPciReserved (h : ServiceHead) (nib low : BitVec 4) (rest : List Byte) (s : State) : Result :=
  receiveService s h (pciByte nib low :: rest) (.error .unknownFrameType)

end Sys2Proof.Machine
end

