-- ==== Sys2Proof/Machine/Reserved.lean ====
section
/-! DEFINITION. The reserved command encodings (30_encoding.md R82): S = InvalidField, Y0 to Y3 = 0, no state change, never held. -/

namespace Sys2Proof.Machine

/-- OP = 0x0 (R82). -/
def execReservedOp0 (s : State) : Result := raiseCommand s .invalidField

/-- OP = 0x9 (R82). -/
def execReservedOp9 (s : State) : Result := raiseCommand s .invalidField

/-- OP = 0xA (R82). -/
def execReservedOpA (s : State) : Result := raiseCommand s .invalidField

/-- OP = 0xB (R82). -/
def execReservedOpB (s : State) : Result := raiseCommand s .invalidField

/-- OP = 0xC (R82). -/
def execReservedOpC (s : State) : Result := raiseCommand s .invalidField

/-- OP = 0xD (R82). -/
def execReservedOpD (s : State) : Result := raiseCommand s .invalidField

/-- OP = 0xE (R82). -/
def execReservedOpE (s : State) : Result := raiseCommand s .invalidField

/-- OP = 0xF (R82). -/
def execReservedOpF (s : State) : Result := raiseCommand s .invalidField

/-- CW[31:4] not 0, whatever OP (R82); the word itself changes nothing in the answer. -/
def execReservedCwHigh (_cw : Word) (s : State) : Result := raiseCommand s .invalidField

end Sys2Proof.Machine
end

