-- ==== Sys2Proof/Machine/ResetAction.lean ====
section
/-! DEFINITION. The port action RESET (70_reset_and_hazards.md R240). -/

namespace Sys2Proof.Machine

/-- RESET (R240): every register takes its reset value, the queues are emptied, RA_BUF and TX_BUF become unspecified (R241). The
parameters stay (R7), and so does what the host holds on the ports (log 2). -/
def execReset (s : State) : Result :=
  .next
    { s with
      ra := { active := false, size := 0, count := 0, lastIdx := 0, prio := 0, dst := 0, src := 0, buf := [] }
      fc := { valid := false, flag := 0, bs := 0, st := 0 }
      tx :=
        { state := .idle, id := 0, len := 0, pos := 0, idx := 0, bs := 0, st := 0, blkCnt := 0, timer := 0, done := false,
          result := .success, buf := [] }
      txq := []
      msgq := []
      errq := []
      out := .nothing }

end Sys2Proof.Machine
end

