-- ==== Sys2Proof/Machine/Send.lean ====
section
/-! DEFINITION. The send path (43_segmentation.md): WRBUF, SEND, STATUS, the TX-engine transitions R180 to R188, TXSTEP, the flow-status rows (log 7), and TICK. -/

namespace Sys2Proof.Machine

/-- WRBUF (R170): enabled only in IDLE. -/
def execWrbuf (a b : Word) (s : State) : Result :=
  if s.tx.state ≠ .idle then noStep s
  else if indexInRange a && byteInRange b then
    respond (s.withTx { s.tx with buf := Memory.write s.tx.buf a.toNat (addrOf b) }) 0 0 0 0
  else raiseCommand s .invalidField

/-- SEND, single-frame path (R172). -/
def sendSingle (s : State) (id : Ident) (payload : List Byte) : Result :=
  respond ((s.withTx ((s.tx.beginSend id).finishSend .success)).pushTxq
    (outFrame id (BitVec.ofNat 8 payload.length :: payload))) 0 0 0 0

/-- The TX engine after the First frame of a send of len bytes (R173). -/
def TxEngine.startSegments (t : TxEngine) (id : Ident) (len : BitVec 12) : TxEngine :=
  { (t.beginSend id).enterWaitFc with len := len, pos := 6, idx := 1, bs := 0, st := 0, blkCnt := 0 }

/-- SEND, segmented path (R173). -/
def sendFirst (s : State) (id : Ident) (len : BitVec 12) (payload : List Byte) : Result :=
  respond ((s.withTx (s.tx.startSegments id len)).pushTxq
    (outFrame id (pciByte 0x1 (len.extractLsb' 8 4) :: len.extractLsb' 0 8 :: payload.take Config.ffData))) 0 0 0 0

/-- SEND (R171): enabled only in IDLE; range checks before any frame; a full TXQ has no step (R58; log 8); an unwritten byte among
TX_BUF[0..L) is a fault (R178). -/
def execSend (a b c d : Word) (s : State) : Result :=
  if s.tx.state ≠ .idle then noStep s
  else if sendInRange a b c d = false then raiseCommand (s.withTx s.tx.rejectSend) .invalidField
  else if s.txqRoom = false then noStep s
  else
    let id := svcIdent s.cfg (prioOf a) s.cfg.svcMarker (addrOf b) (addrOf c)
    match Memory.readBytes s.tx.buf 0 d.toNat with
    | none => .fault .txByteUnwritten
    | some payload =>
      if d.toNat ≤ Config.sfMax then sendSingle s id payload else sendFirst s id (d.extractLsb' 0 12) payload

/-- STATUS (R196): never held. -/
def execStatus (s : State) : Result :=
  respond s ((txStateCode s.tx.state).setWidth 32) (boolWord s.tx.done) ((errCode s.tx.result).setWidth 32) (boolWord s.ra.active)

/-- Continue (R181): block size and separation time from the tuple, a new block, no delay before its first frame. -/
def takeContinue (s : State) : Result :=
  .next (((s.withFc s.fc.consume).withTx { s.tx with state := .sendCf, bs := s.fc.bs, st := s.fc.st, blkCnt := 0 }).withOut .nothing)

/-- Wait (R182): pause for WAIT_INTERVAL; the tuple's bs and st are not used. -/
def takeWait (s : State) : Result :=
  .next (((s.withFc s.fc.consume).withTx { s.tx with state := .waitPause, timer := s.cfg.waitInterval }).withOut .nothing)

/-- Abort and the reserved flags (R187): the send fails. -/
def takeAbort (s : State) : Result :=
  .next (((s.withFc s.fc.consume).withTx (s.tx.finishSend .aborted)).withOut .nothing)

/-- WAIT_FC with a stored tuple (R180): by its flag. -/
def consumeFlow (s : State) : Result :=
  match s.fc.flag.toNat with
  | 0 => takeContinue s
  | 1 => takeWait s
  | _ => takeAbort s

/-- WAIT_FC timeout (R188). -/
def flowTimeout (s : State) : Result :=
  .next ((s.withTx (s.tx.finishSend .flowControlTimeout)).withOut .nothing)

/-- The TX engine after a Consecutive frame of n bytes (R184): completion first, then the end of a block, then the delay. -/
def TxEngine.afterConsecutive (t : TxEngine) (n : Nat) : TxEngine :=
  let t' : TxEngine := { t with pos := BitVec.ofNat 12 (t.pos.toNat + n), idx := t.idx + 1, blkCnt := t.blkCnt + 1 }
  if t'.pos = t'.len then t'.finishSend .success
  else if t'.bs ≠ 0 ∧ t'.blkCnt = t'.bs then t'.enterWaitFc
  else { t' with state := .sepDelay, timer := BitVec.ofNat 32 (stTicks t'.st) }

/-- SEND_CF (R184): emit the next Consecutive frame; a full TXQ has no step (R58). -/
def sendConsecutive (s : State) : Result :=
  if s.txqRoom = false then noStep s
  else
    let n := min Config.cfMax (s.tx.len.toNat - s.tx.pos.toNat)
    match Memory.readBytes s.tx.buf s.tx.pos.toNat n with
    | none => .fault .txByteUnwritten
    | some payload =>
      .next (((s.withTx (s.tx.afterConsecutive n)).pushTxq (outFrame s.tx.id (pciByte 0x2 s.tx.idx :: payload))).withOut .nothing)

/-- SEP_DELAY at the end of the delay (R185). -/
def endDelay (s : State) : Result :=
  .next ((s.withTx { s.tx with state := .sendCf }).withOut .nothing)

/-- WAIT_PAUSE at the end of the pause (R186), by WAIT_POLICY. -/
def endPause (s : State) : Result :=
  match s.cfg.waitPolicy with
  | .rewait => .next ((s.withTx s.tx.enterWaitFc).withOut .nothing)
  | .resume => .next ((s.withTx { s.tx with state := .sendCf, blkCnt := 0 }).withOut .nothing)

/-- TXSTEP: the one enabled TX-engine transition, or no step (R60, R191). -/
def execTxstep (s : State) : Result :=
  match s.tx.state with
  | .idle => noStep s
  | .waitFc => if s.fc.valid then consumeFlow s else if s.tx.timer = 0 then flowTimeout s else noStep s
  | .sendCf => sendConsecutive s
  | .sepDelay => if s.tx.timer = 0 then endDelay s else noStep s
  | .waitPause => if s.tx.timer = 0 then endPause s else noStep s

/-- FC_CONTINUE (R180, R181): the TX engine consumes a stored tuple whose flag is 0. -/
def execFcContinue (s : State) : Result :=
  if s.flowReady && s.fc.flag == 0 then takeContinue s else noStep s

/-- FC_WAIT (R180, R182): the TX engine consumes a stored tuple whose flag is 1. -/
def execFcWait (s : State) : Result :=
  if s.flowReady && s.fc.flag == 1 then takeWait s else noStep s

/-- FC_ABORT (R180, R187): the TX engine consumes a stored tuple whose flag is 2. -/
def execFcAbort (s : State) : Result :=
  if s.flowReady && s.fc.flag == 2 then takeAbort s else noStep s

/-- FC_RESERVED (R180, R187): the TX engine consumes a stored tuple whose flag is this one of 3 to 15, as an Abort. -/
def execFcReserved (fs : BitVec 4) (s : State) : Result :=
  if s.flowReady && s.fc.flag == fs && decide (3 ≤ fs) then takeAbort s else noStep s

/-- TICK (R190): always enabled; TX_TIMER counts down in a timed state and stops at 0. -/
def execTick (s : State) : Result :=
  if s.tx.state.timed && decide (s.tx.timer ≠ 0) then
    .next ((s.withTx { s.tx with timer := s.tx.timer - 1 }).withOut .nothing)
  else .next (s.withOut .nothing)

end Sys2Proof.Machine
end

