-- ==== Sys2Proof/Machine/Dispatch.lean ====
section
/-! DEFINITION. One arm per constructor of Instr. -/

namespace Sys2Proof.Machine

def exec (i : Instr) (s : State) : Host.Outcome State Fault Refusal :=
  match i with
  | .encpub a b c => Sys2Proof.Machine.execEncpub a b c s
  | .decpub a => Sys2Proof.Machine.execDecpub a s
  | .encsvc a b c => Sys2Proof.Machine.execEncsvc a b c s
  | .decsvc a => Sys2Proof.Machine.execDecsvc a s
  | .classify a b c d => Sys2Proof.Machine.execClassify a b c d s
  | .wrbuf a b => Sys2Proof.Machine.execWrbuf a b s
  | .send a b c d => Sys2Proof.Machine.execSend a b c d s
  | .status => Sys2Proof.Machine.execStatus s
  | .reservedOp0 => Sys2Proof.Machine.execReservedOp0 s
  | .reservedOp9 => Sys2Proof.Machine.execReservedOp9 s
  | .reservedOpA => Sys2Proof.Machine.execReservedOpA s
  | .reservedOpB => Sys2Proof.Machine.execReservedOpB s
  | .reservedOpC => Sys2Proof.Machine.execReservedOpC s
  | .reservedOpD => Sys2Proof.Machine.execReservedOpD s
  | .reservedOpE => Sys2Proof.Machine.execReservedOpE s
  | .reservedOpF => Sys2Proof.Machine.execReservedOpF s
  | .reservedCwHigh cw => Sys2Proof.Machine.execReservedCwHigh cw s
  | .idPub prio doid src len data => Sys2Proof.Machine.execIdPub prio doid src len data s
  | .idSvc head data => Sys2Proof.Machine.execIdSvc head data s
  | .idReservedDisc prio disc low len data => Sys2Proof.Machine.execIdReservedDisc prio disc low len data s
  | .pciSf head sfDl rest => Sys2Proof.Machine.execPciSf head sfDl rest s
  | .pciFf head ffDl rest => Sys2Proof.Machine.execPciFf head ffDl rest s
  | .pciCf head sn rest => Sys2Proof.Machine.execPciCf head sn rest s
  | .pciFc head fs bs st rest => Sys2Proof.Machine.execPciFc head fs bs st rest s
  | .pciReserved head nib low rest => Sys2Proof.Machine.execPciReserved head nib low rest s
  | .fcContinue => Sys2Proof.Machine.execFcContinue s
  | .fcWait => Sys2Proof.Machine.execFcWait s
  | .fcAbort => Sys2Proof.Machine.execFcAbort s
  | .fcReserved fs => Sys2Proof.Machine.execFcReserved fs s
  | .rxframe rec => Sys2Proof.Machine.execRxframe rec s
  | .tick => Sys2Proof.Machine.execTick s
  | .txstep => Sys2Proof.Machine.execTxstep s
  | .poptx => Sys2Proof.Machine.execPoptx s
  | .popmsg => Sys2Proof.Machine.execPopmsg s
  | .poperr => Sys2Proof.Machine.execPoperr s
  | .reset => Sys2Proof.Machine.execReset s

end Sys2Proof.Machine
end

