-- ==== Sys2Proof/Machine/Ports.lean ====
section
/-! DEFINITION. How a step finds its input on the ports and what it takes off them (20_memory.md R58, R60; log 2). -/

namespace Sys2Proof.Machine

/-- The input of an agent's turn; `none` where the agent's port carries nothing. -/
def fetchInput (s : State) : Turn → Option PortInput
  | .command => s.cmdPort.head?.map .command
  | .receive => s.rxPort.head?.map .rx
  | .flow pci => some (.flow pci)
  | .tick => some .tick
  | .txstep => some .txstep
  | .poptx => some .poptx
  | .popmsg => some .popmsg
  | .poperr => some .poperr
  | .reset => some .reset

/-- Take the oldest input off the port of the agent that moved. -/
def State.takeInput (s : State) : Turn → State
  | .command => { s with cmdPort := s.cmdPort.tail }
  | .receive => { s with rxPort := s.rxPort.tail }
  | .flow _ | .tick | .txstep | .poptx | .popmsg | .poperr | .reset => s

/-- After a step the input leaves its port, unless the action had no step: then it stays there (R58, R170, R171). -/
def releasePort (t : Turn) (s : State) : State :=
  if s.out = .noStep then s else s.takeInput t

/-- Put an input at the head of its port and give its agent the next turn. -/
def State.presentInput (s : State) : PortInput → State
  | .command c => { s with cmdPort := c :: s.cmdPort, sched := .command :: s.sched }
  | .rx r => { s with rxPort := r :: s.rxPort, sched := .receive :: s.sched }
  | .flow pci => { s with sched := .flow pci :: s.sched }
  | .tick => { s with sched := .tick :: s.sched }
  | .txstep => { s with sched := .txstep :: s.sched }
  | .poptx => { s with sched := .poptx :: s.sched }
  | .popmsg => { s with sched := .popmsg :: s.sched }
  | .poperr => { s with sched := .poperr :: s.sched }
  | .reset => { s with sched := .reset :: s.sched }

end Sys2Proof.Machine
end

