-- ==== Sys2Proof/Machine/Step.lean ====
section
/-! DEFINITION. One step: the agent whose turn it is takes its input from its port, decodes and runs it (20_memory.md R59, R60; log 2). -/

namespace Sys2Proof.Machine

/-- One atomic step. With no turn left no agent moves; an agent whose port carries nothing does not move; an action that has no step
leaves its input on the port. -/
def step (s : State) : Host.Outcome State Fault Refusal :=
  match s.sched with
  | [] => .next (s.withOut .nothing)
  | t :: rest =>
    match fetchInput s t with
    | none => .next ({ s with sched := rest }.withOut .nothing)
    | some raw =>
      match decode s.cfg raw with
      | .error reason => .refused (.undecodable reason)
      | .ok i =>
        match exec i { s with sched := rest } with
        | .next u => .next (releasePort t u)
        | .fault f => .fault f
        | .refused r => .refused r

/-- The state with a table word presented on its port and the next turn given to its agent (log 9). -/
def State.withFetchWord (s : State) (nbits w : Nat) : State := s.presentInput (tableInput s.cfg nbits w)

end Sys2Proof.Machine
end

