-- ==== Sys2Proof/Safety.lean ====
section
/-! DEFINITION. What a safe state of the block is: the invariants the rules state (10_state.md R25, R27, R32, R34; 20_memory.md R50, R52, R54; 42_reassembly.md R151; 43_segmentation.md R194, R195; 70_reset_and_hazards.md R249). -/

namespace Sys2Proof

/-- The rows of the table in which a frame arrives on the RX port (R140; log 6). -/
def Instr.isArrival : Instr → Bool
  | .rxframe _ | .idPub _ _ _ _ _ | .idSvc _ _ | .idReservedDisc _ _ _ _ _ | .pciSf _ _ _ | .pciFf _ _ _ | .pciCf _ _ _
  | .pciFc _ _ _ _ _ | .pciReserved _ _ _ _ => true
  | .encpub _ _ _ | .decpub _ | .encsvc _ _ _ | .decsvc _ | .classify _ _ _ _ | .wrbuf _ _ | .send _ _ _ _ | .status => false
  | .reservedOp0 | .reservedOp9 | .reservedOpA | .reservedOpB | .reservedOpC | .reservedOpD | .reservedOpE | .reservedOpF => false
  | .reservedCwHigh _ | .fcContinue | .fcWait | .fcAbort | .fcReserved _ => false
  | .tick | .txstep | .poptx | .popmsg | .poperr | .reset => false

/-- The rows of the table that are TX-engine transitions (R180 to R188; log 7). -/
def Instr.isTransition : Instr → Bool
  | .txstep | .fcContinue | .fcWait | .fcAbort | .fcReserved _ => true
  | .encpub _ _ _ | .decpub _ | .encsvc _ _ _ | .decsvc _ | .classify _ _ _ _ | .wrbuf _ _ | .send _ _ _ _ | .status => false
  | .reservedOp0 | .reservedOp9 | .reservedOpA | .reservedOpB | .reservedOpC | .reservedOpD | .reservedOpE | .reservedOpF => false
  | .reservedCwHigh _ | .rxframe _ | .idPub _ _ _ _ _ | .idSvc _ _ | .idReservedDisc _ _ _ _ _ => false
  | .pciSf _ _ _ | .pciFf _ _ _ | .pciCf _ _ _ | .pciFc _ _ _ _ _ | .pciReserved _ _ _ _ => false
  | .tick | .poptx | .popmsg | .poperr | .reset => false

/-- The commands of the command port, reserved words among them (R81, R82). -/
def Instr.isCommand : Instr → Bool
  | .encpub _ _ _ | .decpub _ | .encsvc _ _ _ | .decsvc _ | .classify _ _ _ _ | .wrbuf _ _ | .send _ _ _ _ | .status => true
  | .reservedOp0 | .reservedOp9 | .reservedOpA | .reservedOpB | .reservedOpC | .reservedOpD | .reservedOpE | .reservedOpF => true
  | .reservedCwHigh _ => true
  | .rxframe _ | .idPub _ _ _ _ _ | .idSvc _ _ | .idReservedDisc _ _ _ _ _ | .pciSf _ _ _ | .pciFf _ _ _ | .pciCf _ _ _ => false
  | .pciFc _ _ _ _ _ | .pciReserved _ _ _ _ | .fcContinue | .fcWait | .fcAbort | .fcReserved _ => false
  | .tick | .txstep | .poptx | .popmsg | .poperr | .reset => false

end Sys2Proof

namespace Sys2Proof.Machine

/-- Every byte of a buffer below an index has been written. -/
def Memory.writtenBelow (m : Memory) (n : Nat) : Prop := ∀ i, i < n → (Memory.read m i).isSome = true

/-- A number of entries a queue of the given depth may hold (R34). -/
def depthAdmits : Config.Depth → Nat → Prop
  | .unbounded, _ => True
  | .bounded lessOne, n => n ≤ lessOne + 1

/-- A transmitted frame record (R52): EFF set, bits 30:29 clear, len at most 8, eight data bytes, padding 0. -/
structure OutboundFrame (f : FrameRecord) : Prop where
  eff : f.canId.extractLsb' 31 1 = 1
  flags : f.canId.extractLsb' 29 2 = 0
  len : f.len.toNat ≤ 8
  data : f.data.length = 8
  padding : ∀ i, f.len.toNat ≤ i → byteAt f.data i = 0

/-- A message record whose len counts its bytes (R54); a Publication message has at most 8. -/
structure Message.Ok (m : Message) : Prop where
  len : m.bytes.length = m.len.toNat
  publication : m.kind = .publication → m.bytes.length ≤ 8

/-- The codes a received frame can report (R141). -/
def ErrRecord.Ok (e : ErrRecord) : Prop :=
  e.code = .invalidField ∨ e.code = .malformedIdentifier ∨ e.code = .truncatedFrame ∨ e.code = .unknownFrameType

/-- The reassembly context: RA_COUNT ≤ RA_SIZE (R25), and the bytes below RA_COUNT are written (R27). -/
structure Reassembly.Ok (ra : Reassembly) : Prop where
  buf : Memory.wf ra.buf = true
  count : ra.count.toNat ≤ ra.size.toNat
  written : Memory.writtenBelow ra.buf ra.count.toNat

/-- The TX engine between steps: R194 while a send is in progress, the bytes of the send written (R178), the block counter below a
non-zero block size while it is compared (R32), the timer within what its state loads (R195), and the legal outcomes of R30. -/
structure TxEngine.Ok (p : Config.Params) (t : TxEngine) : Prop where
  buf : Memory.wf t.buf = true
  lenMin : t.state ≠ .idle → 8 ≤ t.len.toNat
  posMin : t.state ≠ .idle → 6 ≤ t.pos.toNat
  posMax : t.state ≠ .idle → t.pos.toNat < t.len.toNat
  posStep : t.state ≠ .idle → (t.pos.toNat - 6) % 7 = 0
  idx : t.state ≠ .idle → t.idx.toNat = (1 + (t.pos.toNat - 6) / 7) % 16
  written : t.state ≠ .idle → Memory.writtenBelow t.buf t.len.toNat
  block : t.state = .sendCf ∨ t.state = .sepDelay → t.bs ≠ 0 → t.blkCnt.toNat < t.bs.toNat
  timerWaitFc : t.state = .waitFc → t.timer.toNat ≤ Config.fcTimeoutTicks
  timerSepDelay : t.state = .sepDelay → t.timer.toNat ≤ stTicks t.st
  timerWaitPause : t.state = .waitPause → t.timer.toNat ≤ p.waitInterval.toNat
  result : t.result = .success ∨ t.result = .invalidField ∨ t.result = .flowControlTimeout ∨ t.result = .aborted

/-- The invariant every step keeps: the parameters meet R6, each unit is as its rules say between steps, a stored tuple is held only
where R194 and R249 allow, and the queues hold legal records within their depths. -/
structure State.Inv (s : State) : Prop where
  cfg : s.cfg.wf
  ra : s.ra.Ok
  tx : s.tx.Ok s.cfg
  flow : s.fc.valid = true → s.acceptsFlow = true
  txq : ∀ f ∈ s.txq, OutboundFrame f
  msgq : ∀ m ∈ s.msgq, m.Ok
  errq : ∀ e ∈ s.errq, e.Ok
  txqDepth : depthAdmits s.cfg.qTx s.txq.length
  msgqDepth : depthAdmits s.cfg.qMsg s.msgq.length
  errqDepth : depthAdmits s.cfg.qErr s.errq.length

end Sys2Proof.Machine
end

