-- ==== Sys2Proof/Certificates/Slice0/Obligations.lean ====
section
/-! DEFINITION. The statements for the provers, from the numbered rules of spec/. Each docstring names the rules it rests on. -/

open Sys2Proof Sys2Proof.Machine

/-! ### Words of the statements: numbers, not the model's bit operations -/

namespace Sys2Proof.Spec

/-- The number of a Publication identifier (R71): PRIO at bit 26, PUB_DISC at bit 24, DOID at bit 8, SRC at bit 0. -/
def pubIdNumber (p : Config.Params) (prio doid src : Nat) : Nat :=
  prio * 2 ^ 26 + p.pubDisc.toNat * 2 ^ 24 + doid * 2 ^ 8 + src

/-- The number of a Service identifier (R72): PRIO at bit 26, SVC_DISC at bit 24, MARKER at bit 16, DST at bit 8, SRC at bit 0. -/
def svcIdNumber (p : Config.Params) (prio marker dst src : Nat) : Nat :=
  prio * 2 ^ 26 + p.svcDisc.toNat * 2 ^ 24 + marker * 2 ^ 16 + dst * 2 ^ 8 + src

/-- Y1 of CLASSIFY (R84) as a number. -/
def fieldsNumber (prio a src : Nat) : Nat := prio * 2 ^ 24 + a * 2 ^ 8 + src

/-- The discriminator of an identifier or can_id number: bits 25:24 (R70). -/
def discOf (v : Nat) : Nat := v / 2 ^ 24 % 4

/-- The marker of an identifier or can_id number: bits 23:16 (R72). -/
def markerOf (v : Nat) : Nat := v / 2 ^ 16 % 256

/-- Bits 31:29 of a can_id are 100: an extended-format frame with a 29-bit identifier (R52, R121). -/
def extended (canId : Word) : Prop := canId.toNat / 2 ^ 29 = 4

/-- The identifier stage passes for the Publication family (R121). -/
def isPublication (p : Config.Params) (canId : Word) : Prop :=
  extended canId ∧ discOf canId.toNat = p.pubDisc.toNat

/-- The identifier stage passes for the Service family (R121). -/
def isService (p : Config.Params) (canId : Word) : Prop :=
  extended canId ∧ discOf canId.toNat ≠ p.pubDisc.toNat ∧ discOf canId.toNat = p.svcDisc.toNat ∧
    (p.strictMarker = true → markerOf canId.toNat = p.svcMarker.toNat)

/-- A queue holds fewer entries than its depth (R58). -/
def belowDepth (depth : Config.Depth) (n : Nat) : Prop := ∀ lessOne, depth = .bounded lessOne → n < lessOne + 1

/-- st_ticks (R77, R175) on numbers. -/
def separationTicks (v : Nat) : Nat :=
  if v ≤ 127 then 10 * v else if 241 ≤ v ∧ v ≤ 249 then v % 16 else 0

/-- ceil((L - 6) / 7) (R176). -/
def consecutiveCount (len : Nat) : Nat := (len - 6 + 6) / 7

/-- The response with an error code and no results (R211). -/
def errorAnswer (e : ErrKind) : PortOut := .response ⟨e, 0, 0, 0, 0⟩

/-- Instructions run one after another, stopping at a fault or a refusal. -/
def execAll : List Instr → State → Result
  | [], s => .next s
  | i :: is, s =>
    match exec i s with
    | .next t => execAll is t
    | .fault f => .fault f
    | .refused r => .refused r

/-- The frame record of a row in which a frame arrives (R52, R71, R72, R75, R76); the marker is a field of the row's head. -/
def rowFrame (p : Config.Params) : Instr → Option FrameRecord
  | .rxframe r => some r
  | .idPub prio doid src len data =>
    some ⟨BitVec.ofNat 32 (2 ^ 31 + pubIdNumber p prio.toNat doid.toNat src.toNat), len, data⟩
  | .idReservedDisc prio disc low len data =>
    some ⟨BitVec.ofNat 32 (2 ^ 31 + prio.toNat * 2 ^ 26 + disc.toNat * 2 ^ 24 + low.toNat), len, data⟩
  | .idSvc h data => some (svcFrame p h data)
  | .pciSf h dl rest => some (svcFrame p h (BitVec.ofNat 8 dl.toNat :: rest))
  | .pciFf h dl rest =>
    some (svcFrame p h (BitVec.ofNat 8 (0x10 + dl.toNat / 256) :: BitVec.ofNat 8 (dl.toNat % 256) :: rest))
  | .pciCf h sn rest => some (svcFrame p h (BitVec.ofNat 8 (0x20 + sn.toNat) :: rest))
  | .pciFc h fs bs st rest => some (svcFrame p h (BitVec.ofNat 8 (0x30 + fs.toNat) :: bs :: st :: rest))
  | .pciReserved h nib low rest => some (svcFrame p h (BitVec.ofNat 8 (16 * nib.toNat + low.toNat) :: rest))
  | _ => none
where
  svcFrame (p : Config.Params) (h : ServiceHead) (data : List Byte) : FrameRecord :=
    ⟨BitVec.ofNat 32 (2 ^ 31 + svcIdNumber p h.prio.toNat h.marker.toNat h.dst.toNat h.src.toNat), h.len, data⟩

/-- A frame that the block transmits with an identifier and payload bytes (R52): its number, its length, its bytes, 0 after them. -/
def Transmits (f : FrameRecord) (id : Nat) (bytes : List Byte) : Prop :=
  f.canId.toNat = 2 ^ 31 + id ∧ f.len.toNat = bytes.length ∧ f.data.length = 8 ∧
    (∀ i, i < bytes.length → f.data[i]? = bytes[i]?) ∧ (∀ i, bytes.length ≤ i → i < 8 → f.data[i]? = some 0)

/-- The Consecutive frames of the bytes still to send, from a sequence index on (R184): seven bytes each but the last. -/
def consecutiveBytes (idx : Nat) : Nat → List Byte → List (List Byte)
  | 0, _ => []
  | fuel + 1, bytes =>
    if bytes = [] then []
    else (BitVec.ofNat 8 (0x20 + idx % 16) :: bytes.take 7) :: consecutiveBytes (idx + 1) fuel (bytes.drop 7)

/-- The data bytes of every frame of a send of this payload (R172, R173, R184), in order. -/
def segmentBytes (payload : List Byte) : List (List Byte) :=
  if payload.length ≤ 7 then [BitVec.ofNat 8 payload.length :: payload]
  else
    (BitVec.ofNat 8 (0x10 + payload.length / 256) :: BitVec.ofNat 8 (payload.length % 256) :: payload.take 6) ::
      consecutiveBytes 1 payload.length (payload.drop 6)

/-- The records of a send of this payload under a Service identifier (R52). -/
def segments (id : Nat) (payload : List Byte) : List FrameRecord :=
  (segmentBytes payload).map fun bytes =>
    ⟨BitVec.ofNat 32 (2 ^ 31 + id), BitVec.ofNat 8 bytes.length, bytes ++ List.replicate (8 - bytes.length) 0⟩

end Sys2Proof.Spec

open Sys2Proof.Spec

/-! ### The identifier codec -/

/-- R100: what ENCPUB answers, on every operand. -/
def Obligations.EncpubPacksPublicationIdentifier : Prop :=
  ∀ (a b c : Word) (s : State),
    (a.toNat ≤ 7 → b.toNat ≤ 65535 → c.toNat ≤ 255 →
      ∃ y : Word, exec (.encpub a b c) s = .next { s with out := .response ⟨.success, y, 0, 0, 0⟩ } ∧
        y.toNat = pubIdNumber s.cfg a.toNat b.toNat c.toNat ∧ y.toNat < 2 ^ 29) ∧
    (7 < a.toNat ∨ 65535 < b.toNat ∨ 255 < c.toNat →
      exec (.encpub a b c) s = .next { s with out := errorAnswer .invalidField })

/-- R101: what DECPUB answers, on every operand. -/
def Obligations.DecpubUnpacksPublicationIdentifier : Prop :=
  ∀ (a : Word) (s : State),
    (2 ^ 29 ≤ a.toNat ∨ discOf a.toNat ≠ s.cfg.pubDisc.toNat →
      exec (.decpub a) s = .next { s with out := errorAnswer .malformedIdentifier }) ∧
    (a.toNat < 2 ^ 29 → discOf a.toNat = s.cfg.pubDisc.toNat →
      ∃ y0 y1 y2 : Word, exec (.decpub a) s = .next { s with out := .response ⟨.success, y0, y1, y2, 0⟩ } ∧
        y0.toNat = a.toNat / 2 ^ 26 ∧ y1.toNat = a.toNat / 2 ^ 8 % 2 ^ 16 ∧ y2.toNat = a.toNat % 2 ^ 8)

/-- R102: what ENCSVC answers, on every operand. -/
def Obligations.EncsvcPacksServiceIdentifier : Prop :=
  ∀ (a b c : Word) (s : State),
    (a.toNat ≤ 7 → b.toNat ≤ 255 → c.toNat ≤ 255 →
      ∃ y : Word, exec (.encsvc a b c) s = .next { s with out := .response ⟨.success, y, 0, 0, 0⟩ } ∧
        y.toNat = svcIdNumber s.cfg a.toNat s.cfg.svcMarker.toNat b.toNat c.toNat ∧ y.toNat < 2 ^ 29) ∧
    (7 < a.toNat ∨ 255 < b.toNat ∨ 255 < c.toNat →
      exec (.encsvc a b c) s = .next { s with out := errorAnswer .invalidField })

/-- R103: what DECSVC answers, on every operand and for both settings of STRICT_MARKER. -/
def Obligations.DecsvcUnpacksServiceIdentifier : Prop :=
  ∀ (a : Word) (s : State),
    (2 ^ 29 ≤ a.toNat ∨ discOf a.toNat ≠ s.cfg.svcDisc.toNat ∨
        (s.cfg.strictMarker = true ∧ markerOf a.toNat ≠ s.cfg.svcMarker.toNat) →
      exec (.decsvc a) s = .next { s with out := errorAnswer .malformedIdentifier }) ∧
    (a.toNat < 2 ^ 29 → discOf a.toNat = s.cfg.svcDisc.toNat →
      (s.cfg.strictMarker = true → markerOf a.toNat = s.cfg.svcMarker.toNat) →
      ∃ y0 y1 y2 : Word, exec (.decsvc a) s = .next { s with out := .response ⟨.success, y0, y1, y2, 0⟩ } ∧
        y0.toNat = a.toNat / 2 ^ 26 ∧ y1.toNat = a.toNat / 2 ^ 8 % 2 ^ 8 ∧ y2.toNat = a.toNat % 2 ^ 8)

/-- R104: the round-trip laws of both families and their converses. -/
def Obligations.CodecRoundTrips : Prop :=
  ∀ (s : State),
    (∀ a b c : Word, a.toNat ≤ 7 → b.toNat ≤ 65535 → c.toNat ≤ 255 →
      ∃ y : Word, exec (.encpub a b c) s = .next { s with out := .response ⟨.success, y, 0, 0, 0⟩ } ∧
        exec (.decpub y) s = .next { s with out := .response ⟨.success, a, b, c, 0⟩ }) ∧
    (∀ a c : Word, exec (.encpub a 65536 c) s = .next { s with out := errorAnswer .invalidField }) ∧
    (∀ a b c : Word, a.toNat ≤ 7 → b.toNat ≤ 255 → c.toNat ≤ 255 →
      ∃ y : Word, exec (.encsvc a b c) s = .next { s with out := .response ⟨.success, y, 0, 0, 0⟩ } ∧
        exec (.decsvc y) s = .next { s with out := .response ⟨.success, a, b, c, 0⟩ }) ∧
    (∀ v y0 y1 y2 : Word, exec (.decpub v) s = .next { s with out := .response ⟨.success, y0, y1, y2, 0⟩ } →
      exec (.encpub y0 y1 y2) s = .next { s with out := .response ⟨.success, v, 0, 0, 0⟩ }) ∧
    (∀ v y0 y1 y2 : Word, s.cfg.strictMarker = true →
      exec (.decsvc v) s = .next { s with out := .response ⟨.success, y0, y1, y2, 0⟩ } →
      exec (.encsvc y0 y1 y2) s = .next { s with out := .response ⟨.success, v, 0, 0, 0⟩ })

/-! ### The command port -/

/-- R81: OP selects the command, and its operands are A, B, C, D in order. -/
def Obligations.CommandWordSelectsCommand : Prop :=
  ∀ (p : Config.Params) (a b c d : Word),
    decode p (.command ⟨1, a, b, c, d⟩) = .ok (.encpub a b c) ∧
    decode p (.command ⟨2, a, b, c, d⟩) = .ok (.decpub a) ∧
    decode p (.command ⟨3, a, b, c, d⟩) = .ok (.encsvc a b c) ∧
    decode p (.command ⟨4, a, b, c, d⟩) = .ok (.decsvc a) ∧
    decode p (.command ⟨5, a, b, c, d⟩) = .ok (.classify a b c d) ∧
    decode p (.command ⟨6, a, b, c, d⟩) = .ok (.wrbuf a b) ∧
    decode p (.command ⟨7, a, b, c, d⟩) = .ok (.send a b c d) ∧
    decode p (.command ⟨8, a, b, c, d⟩) = .ok .status

/-- R82: every reserved command word, by its decoding, and each reserved row answers InvalidField, changes nothing and is never held. -/
def Obligations.ReservedCommandsAnswerInvalidField : Prop :=
  (∀ (c : Command) (s : State), c.cw.toNat % 16 = 0 ∨ 9 ≤ c.cw.toNat % 16 ∨ 16 ≤ c.cw.toNat →
    exec (decodeCommand c) s = .next { s with out := errorAnswer .invalidField }) ∧
  (∀ (s : State) (i : Instr),
    i = .reservedOp0 ∨ i = .reservedOp9 ∨ i = .reservedOpA ∨ i = .reservedOpB ∨ i = .reservedOpC ∨ i = .reservedOpD ∨
      i = .reservedOpE ∨ i = .reservedOpF ∨ (∃ cw, i = .reservedCwHigh cw) →
    exec i s = .next { s with out := errorAnswer .invalidField })

/-- R196: STATUS reads the four registers, is never held and writes nothing else. -/
def Obligations.StatusReadsRegisters : Prop :=
  ∀ (s : State), ∃ y0 y1 y2 y3 : Word,
    exec .status s = .next { s with out := .response ⟨.success, y0, y1, y2, y3⟩ } ∧
    y0.toNat = (match s.tx.state with | .idle => 0 | .waitFc => 1 | .sendCf => 2 | .sepDelay => 3 | .waitPause => 4) ∧
    y1.toNat = (if s.tx.done = true then 1 else 0) ∧
    y2.toNat = (match s.tx.result with
      | .success => 0 | .invalidField => 1 | .malformedIdentifier => 2 | .truncatedFrame => 3 | .unknownFrameType => 4
      | .flowControlTimeout => 5 | .aborted => 6) ∧
    y3.toNat = (if s.ra.active = true then 1 else 0)

/-! ### Encoding -/

/-- For every well-formed instruction, decoding its encoding gives it back. -/
def Obligations.DecodeOfEncodeIsIdentity : Prop :=
  ∀ (p : Config.Params) (i : Instr), p.wf → i.wf p = true → decode p (encode p i) = .ok i

/-- What the decoder accepts is well-formed. -/
def Obligations.DecodedInstructionIsWellFormed : Prop :=
  ∀ (p : Config.Params) (raw : PortInput) (i : Instr), decode p raw = .ok i → i.wf p = true

/-- R53: a frame image is read with the can_id least significant byte first and data byte 0 first, and a First frame's length most
significant bits first, under every parameter setting. -/
def Obligations.ByteOrderIsFixed : Prop :=
  ∀ (p : Config.Params),
    (∀ b0 b1 b2 b3 len x y z d0 d1 d2 d3 d4 d5 d6 d7 : Byte, ∃ canId : Word,
      decode p (.rx (.record [b0, b1, b2, b3, len, x, y, z, d0, d1, d2, d3, d4, d5, d6, d7])) =
        .ok (.rxframe ⟨canId, len, [d0, d1, d2, d3, d4, d5, d6, d7]⟩) ∧
      canId.toNat = b0.toNat + 2 ^ 8 * b1.toNat + 2 ^ 16 * b2.toNat + 2 ^ 24 * b3.toNat) ∧
    (∀ (h : ServiceHead) (d0 d1 d2 d3 d4 d5 d6 d7 : Byte), h.wf p = true → d0.toNat / 16 = 1 → ∃ ffDl : BitVec 12,
      decode p (.rx (.service h [d0, d1, d2, d3, d4, d5, d6, d7])) = .ok (.pciFf h ffDl [d2, d3, d4, d5, d6, d7]) ∧
      ffDl.toNat = d0.toNat % 16 * 256 + d1.toNat)

/-- Words written out from the encodings of the spec decode to the instructions they stand for (30_encoding.md R71, R72, R75, R76, R81;
95_test_vectors.md), under the default parameters. -/
def Obligations.SpecWordsDecode : Prop :=
  decodeTableWord 32 0x00000001 = some (.encpub 0 0 0) ∧
  decodeTableWord 160 0x0000000000000001000000710000000600000001 = some (.encpub 6 0x71 1) ∧
  decodeTableWord 32 0x00000010 = some (.reservedCwHigh 0x10) ∧
  decodeTableWord 32 0x19007114 = some (.idPub 6 0x71 0x14 0 [0, 0, 0, 0, 0, 0, 0, 0]) ∧
  decodeTableWord 32 0x18DA0A01 = some (.idSvc ⟨6, 0xDA, 0x0A, 0x01, 0⟩ [0, 0, 0, 0, 0, 0, 0, 0]) ∧
  decodeTableWord 8 0x10 = some (.pciFf ⟨0, 0xDA, 0, 0, 0⟩ 0 [0, 0, 0, 0, 0, 0]) ∧
  decodeTableWord 8 0x32 = some .fcAbort ∧
  decodeTableWord 128 0x00000000000000300000000398DA010A =
    some (.rxframe ⟨0x98DA010A, 3, [0x30, 0, 0, 0, 0, 0, 0, 0]⟩)

/-! ### The step -/

/-- A step runs the decoded instruction (R59, R60; the turns and ports are the model's, log 2): the agent's turn is used up, and its
input leaves the port unless the action had no step. -/
def Obligations.StepRunsDecodedInstruction : Prop :=
  ∀ (s : State) (t : Turn) (rest : List Turn) (raw : PortInput) (i : Instr),
    s.sched = t :: rest → fetchInput s t = some raw → decode s.cfg raw = .ok i →
    step s =
      match exec i { s with sched := rest } with
      | .next u =>
        .next
          (if u.out = .noStep then u
           else match t with
            | .command => { u with cmdPort := u.cmdPort.tail }
            | .receive => { u with rxPort := u.rxPort.tail }
            | _ => u)
      | .fault f => .fault f
      | .refused r => .refused r

/-- R58, R140: an action without a step withholds every write, and its input stays on the port. That such an action is a next state
with the output "no step" is the model's choice (log 3). -/
def Obligations.HeldStepWithholdsEveryWrite : Prop :=
  (∀ (i : Instr) (s t : State), exec i s = .next t → t.out = .noStep → t = { s with out := .noStep }) ∧
  (∀ (s u : State) (t : Turn) (rest : List Turn), s.sched = t :: rest → step s = .next u → u.out = .noStep →
    u = { s with sched := rest, out := .noStep })

/-! ### The classifier -/

/-- R120: of the data bytes only the first len are read. -/
def Obligations.ClassifierReadsOnlyLenBytes : Prop :=
  ∀ (p : Config.Params) (canId : Word) (len : Nat) (data data' : List Byte),
    data.take len = data'.take len → classifyFrame p canId len data = classifyFrame p canId len data'

/-- R121, R122, R215: which identifiers and lengths CLASSIFY refuses before any payload byte is looked at, and in which order. -/
def Obligations.ClassifyChecksLengthThenIdentifier : Prop :=
  ∀ (a b c d : Word) (s : State),
    (8 < b.toNat → exec (.classify a b c d) s = .next { s with out := errorAnswer .invalidField }) ∧
    (b.toNat ≤ 8 → ¬ isPublication s.cfg a → ¬ isService s.cfg a →
      exec (.classify a b c d) s = .next { s with out := errorAnswer .malformedIdentifier }) ∧
    (b.toNat = 0 → isService s.cfg a →
      exec (.classify a b c d) s = .next { s with out := errorAnswer .truncatedFrame })

/-- R87: the kind, the fields and the counts CLASSIFY answers for each of the five variants, with the minimum lengths of R124 to R129. -/
def Obligations.ClassifyAnswersVariant : Prop :=
  ∀ (a b c d : Word) (s : State), b.toNat ≤ 8 →
    (isPublication s.cfg a →
      ∃ y1 : Word, exec (.classify a b c d) s = .next { s with out := .response ⟨.success, 0, y1, b, b⟩ } ∧
        y1.toNat = fieldsNumber (a.toNat / 2 ^ 26 % 8) (a.toNat / 2 ^ 8 % 2 ^ 16) (a.toNat % 256)) ∧
    (isService s.cfg a → 1 ≤ b.toNat →
      let low := c.toNat % 16
      ∃ y1 : Word, y1.toNat = fieldsNumber (a.toNat / 2 ^ 26 % 8) (a.toNat / 2 ^ 8 % 256) (a.toNat % 256) ∧
        (c.toNat / 16 % 16 = 0 →
          (b.toNat < 1 + low → exec (.classify a b c d) s = .next { s with out := errorAnswer .truncatedFrame }) ∧
          (1 + low ≤ b.toNat → exec (.classify a b c d) s =
            .next { s with out := .response ⟨.success, 1, y1, BitVec.ofNat 32 low, BitVec.ofNat 32 low⟩ })) ∧
        (c.toNat / 16 % 16 = 1 →
          (b.toNat < 2 → exec (.classify a b c d) s = .next { s with out := errorAnswer .truncatedFrame }) ∧
          (2 ≤ b.toNat →
            let y2 : Word := BitVec.ofNat 32 (low * 256 + c.toNat / 2 ^ 8 % 256)
            exec (.classify a b c d) s =
              .next { s with out := .response ⟨.success, 2, y1, y2, BitVec.ofNat 32 (b.toNat - 2)⟩ })) ∧
        (c.toNat / 16 % 16 = 2 → exec (.classify a b c d) s =
          .next { s with out := .response ⟨.success, 3, y1, BitVec.ofNat 32 low, BitVec.ofNat 32 (b.toNat - 1)⟩ }) ∧
        (c.toNat / 16 % 16 = 3 →
          (b.toNat < 3 → exec (.classify a b c d) s = .next { s with out := errorAnswer .truncatedFrame }) ∧
          (3 ≤ b.toNat →
            let y2 : Word := BitVec.ofNat 32 (c.toNat / 2 ^ 16 % 256 * 2 ^ 16 + c.toNat / 2 ^ 8 % 256 * 2 ^ 8 + low)
            exec (.classify a b c d) s = .next { s with out := .response ⟨.success, 4, y1, y2, 0⟩ })) ∧
        (4 ≤ c.toNat / 16 % 16 → exec (.classify a b c d) s = .next { s with out := errorAnswer .unknownFrameType }))

/-- R130, R141: the error CLASSIFY answers is the error RXFRAME reports in ERRQ for the same frame. -/
def Obligations.ClassifyErrorIsReportedByRxframe : Prop :=
  ∀ (a b c d : Word) (e : ErrKind) (s : State),
    b.toNat < 256 → e ≠ .success → belowDepth s.cfg.qErr s.errq.length →
    exec (.classify a b c d) s = .next { s with out := errorAnswer e } →
    ∃ nibble : BitVec 4, exec (.rxframe ⟨a, BitVec.ofNat 8 b.toNat, wordBytes c ++ wordBytes d⟩) s =
      .next { s with errq := s.errq ++ [⟨e, nibble, a, BitVec.ofNat 8 b.toNat⟩], out := .nothing }

/-! ### The receive path -/

/-- R56, R120, R141: a frame that does not classify adds one record to ERRQ and changes nothing else; the nibble is byte 0's only behind
a good Service identifier and a length of 1 to 8. That it is 0 for a length above 8 is the model's reading (log 14). -/
def Obligations.ErrorReportCarriesNibble : Prop :=
  ∀ (r : FrameRecord) (e : ErrKind) (s : State),
    classifyFrame s.cfg r.canId r.len.toNat r.data = .error e → belowDepth s.cfg.qErr s.errq.length →
    ∃ nibble : BitVec 4,
      exec (.rxframe r) s = .next { s with errq := s.errq ++ [⟨e, nibble, r.canId, r.len⟩], out := .nothing } ∧
      (isService s.cfg r.canId → 1 ≤ r.len.toNat → r.len.toNat ≤ 8 → nibble.toNat = (r.data.getD 0 0).toNat / 16) ∧
      (¬ isService s.cfg r.canId ∨ r.len.toNat = 0 ∨ 8 < r.len.toNat → nibble = 0)

/-- The arrival rows of the table and RXFRAME agree (log 6): a row's meaning is RXFRAME of the frame it names, for every row and state. -/
def Obligations.ArrivalRowsAgreeWithRxframe : Prop :=
  ∀ (i : Instr) (r : FrameRecord) (s : State),
    s.cfg.wf → i.wf s.cfg = true → rowFrame s.cfg i = some r → exec i s = exec (.rxframe r) s

/-- R142: a Publication frame is delivered whole and changes no register. -/
def Obligations.PublicationFrameDelivered : Prop :=
  ∀ (prio : BitVec 3) (doid : BitVec 16) (src : BitVec 8) (len : Byte) (data : List Byte) (s : State),
    len.toNat ≤ 8 → data.length = 8 → belowDepth s.cfg.qMsg s.msgq.length →
    exec (.idPub prio doid src len data) s =
      .next { s with
        msgq := s.msgq ++ [⟨.publication, prio, doid, src, BitVec.ofNat 12 len.toNat, data.take len.toNat⟩]
        out := .nothing }

/-- R79, R141: a frame with a discriminator of neither family is reported and changes nothing else. -/
def Obligations.ReservedDiscriminatorReported : Prop :=
  ∀ (prio : BitVec 3) (disc : BitVec 2) (low : BitVec 24) (len : Byte) (data : List Byte) (s : State),
    len.toNat ≤ 8 → belowDepth s.cfg.qErr s.errq.length →
    exec (.idReservedDisc prio disc low len data) s =
      .next { s with
        errq := s.errq ++ [⟨.malformedIdentifier, 0,
          BitVec.ofNat 32 (2 ^ 31 + prio.toNat * 2 ^ 26 + disc.toNat * 2 ^ 24 + low.toNat), len⟩]
        out := .nothing }

/-- R149: a Single frame is delivered and touches no register, even while a transfer is in progress. -/
def Obligations.SingleFrameDelivered : Prop :=
  ∀ (h : ServiceHead) (sfDl : BitVec 4) (rest : List Byte) (s : State),
    rest.length = 7 → 1 + sfDl.toNat ≤ h.len.toNat → h.len.toNat ≤ 8 → belowDepth s.cfg.qMsg s.msgq.length →
    exec (.pciSf h sfDl rest) s =
      .next { s with
        msgq := s.msgq ++
          [⟨.service, h.prio, BitVec.ofNat 16 h.dst.toNat, h.src, BitVec.ofNat 12 sfDl.toNat, rest.take sfDl.toNat⟩]
        out := .nothing }

/-- R143, R144: a First frame starts a transfer, whatever was in progress, and the Continue reply goes out in the same step with the
addresses swapped. RA_BUF changes below min(payload, declared size) only. -/
def Obligations.FirstFrameStartsTransfer : Prop :=
  ∀ (h : ServiceHead) (ffDl : BitVec 12) (rest : List Byte) (s : State),
    rest.length = 6 → 2 ≤ h.len.toNat → h.len.toNat ≤ 8 → belowDepth s.cfg.qTx s.txq.length →
    let k := min (h.len.toNat - 2) ffDl.toNat
    ∃ (buf : Memory) (reply : FrameRecord),
      exec (.pciFf h ffDl rest) s =
        .next { s with
          ra :=
            { active := true, size := ffDl, count := BitVec.ofNat 12 k, lastIdx := 0, prio := h.prio, dst := h.dst,
              src := h.src, buf := buf }
          txq := s.txq ++ [reply]
          out := .nothing } ∧
      (∀ i, i < k → Memory.read buf i = rest[i]?) ∧
      (∀ i, k ≤ i → Memory.read buf i = Memory.read s.ra.buf i) ∧
      Transmits reply (svcIdNumber s.cfg h.prio.toNat s.cfg.svcMarker.toNat h.src.toNat h.dst.toNat) [0x30, 0x00, 0x00]

/-- R145, R146: a Consecutive frame with the expected index is appended up to the declared size; the frame that reaches it delivers the
message and ends the transfer. RA_BUF changes at the appended bytes only. -/
def Obligations.ExpectedConsecutiveFrameAppends : Prop :=
  ∀ (h : ServiceHead) (sn : BitVec 4) (rest : List Byte) (s : State),
    rest.length = 7 → 1 ≤ h.len.toNat → h.len.toNat ≤ 8 → s.ra.active = true →
    sn.toNat = (s.ra.lastIdx.toNat + 1) % 16 → s.ra.count.toNat ≤ s.ra.size.toNat →
    let k := min (h.len.toNat - 1) (s.ra.size.toNat - s.ra.count.toNat)
    ∃ buf : Memory,
      (∀ i, i < k → Memory.read buf (s.ra.count.toNat + i) = rest[i]?) ∧
      (∀ i, i < s.ra.count.toNat ∨ s.ra.count.toNat + k ≤ i → Memory.read buf i = Memory.read s.ra.buf i) ∧
      (s.ra.count.toNat + k < s.ra.size.toNat →
        exec (.pciCf h sn rest) s =
          .next { s with
            ra := { s.ra with count := BitVec.ofNat 12 (s.ra.count.toNat + k), lastIdx := sn, buf := buf }
            out := .nothing }) ∧
      (s.ra.count.toNat + k = s.ra.size.toNat → Memory.writtenBelow s.ra.buf s.ra.count.toNat →
        belowDepth s.cfg.qMsg s.msgq.length →
        ∃ bytes : List Byte, bytes.length = s.ra.size.toNat ∧
          (∀ i, i < s.ra.size.toNat → bytes[i]? = Memory.read buf i) ∧
          exec (.pciCf h sn rest) s =
            .next { s with
              ra := { s.ra with active := false, count := s.ra.size, lastIdx := sn, buf := buf }
              msgq := s.msgq ++ [⟨.service, s.ra.prio, BitVec.ofNat 16 s.ra.dst.toNat, s.ra.src, s.ra.size, bytes⟩]
              out := .nothing })

/-- R147: a Consecutive frame with another index, or while no transfer is in progress, changes nothing and is not reported. -/
def Obligations.UnexpectedConsecutiveFrameDropped : Prop :=
  ∀ (h : ServiceHead) (sn : BitVec 4) (rest : List Byte) (s : State),
    1 ≤ h.len.toNat → h.len.toNat ≤ 8 → (s.ra.active = false ∨ sn.toNat ≠ (s.ra.lastIdx.toNat + 1) % 16) →
    exec (.pciCf h sn rest) s = .next { s with out := .nothing }

/-- R148: a FlowControl frame is stored as a whole tuple in WAIT_FC, and in WAIT_PAUSE under REWAIT, and is discarded otherwise. -/
def Obligations.FlowControlFrameStoredWhileWaiting : Prop :=
  ∀ (h : ServiceHead) (fs : BitVec 4) (bs st : Byte) (rest : List Byte) (s : State),
    3 ≤ h.len.toNat → h.len.toNat ≤ 8 →
    exec (.pciFc h fs bs st rest) s =
      .next { s with
        fc :=
          if s.tx.state = .waitFc ∨ (s.tx.state = .waitPause ∧ s.cfg.waitPolicy = .rewait) then
            { valid := true, flag := fs, bs := bs, st := st }
          else s.fc
        out := .nothing }

/-- R78, R129: a reserved sub-type is reported as UnknownFrameType and has no other effect. -/
def Obligations.ReservedSubtypeReported : Prop :=
  ∀ (h : ServiceHead) (nib low : BitVec 4) (rest : List Byte) (s : State),
    1 ≤ h.len.toNat → h.len.toNat ≤ 8 → belowDepth s.cfg.qErr s.errq.length →
    exec (.pciReserved h nib low rest) s =
      .next { s with
        errq := s.errq ++ [⟨.unknownFrameType, nib,
          BitVec.ofNat 32 (2 ^ 31 + svcIdNumber s.cfg h.prio.toNat h.marker.toNat h.dst.toNat h.src.toNat), h.len⟩]
        out := .nothing }

/-- R124 to R128, R141: a Service frame shorter than its sub-type's minimum is reported as TruncatedFrame, with its nibble, and changes
nothing else. -/
def Obligations.ShortServiceFramesReported : Prop :=
  ∀ (h : ServiceHead) (s : State), belowDepth s.cfg.qErr s.errq.length →
    let report (nib : BitVec 4) : Result :=
      .next { s with
        errq := s.errq ++ [⟨.truncatedFrame, nib,
          BitVec.ofNat 32 (2 ^ 31 + svcIdNumber s.cfg h.prio.toNat h.marker.toNat h.dst.toNat h.src.toNat), h.len⟩]
        out := .nothing }
    (∀ data, h.len.toNat = 0 → exec (.idSvc h data) s = report 0) ∧
    (∀ sfDl rest, 1 ≤ h.len.toNat → h.len.toNat < 1 + sfDl.toNat → h.len.toNat ≤ 8 →
      exec (.pciSf h sfDl rest) s = report 0) ∧
    (∀ ffDl rest, h.len.toNat = 1 → exec (.pciFf h ffDl rest) s = report 1) ∧
    (∀ fs bs st rest, h.len.toNat = 1 ∨ h.len.toNat = 2 → exec (.pciFc h fs bs st rest) s = report 3)

/-- R124, R140: in a state that meets the invariant and whose queues have room, every frame on the RX port is taken, whichever row
presents it. -/
def Obligations.EveryArrivalIsTaken : Prop :=
  ∀ (i : Instr) (s : State), i.isArrival = true → s.Inv →
    belowDepth s.cfg.qTx s.txq.length → belowDepth s.cfg.qMsg s.msgq.length → belowDepth s.cfg.qErr s.errq.length →
    ∃ t, exec i s = .next t ∧ t.out = .nothing

/-- R74, R124: a Service frame acts as the row of its sub-type, read from the high nibble of byte 0. -/
def Obligations.ServiceFrameActsBySubtype : Prop :=
  ∀ (h : ServiceHead) (b0 b1 b2 : Byte) (rest : List Byte) (s : State),
    1 ≤ h.len.toNat → h.len.toNat ≤ 8 → rest.length = 5 →
    exec (.idSvc h (b0 :: b1 :: b2 :: rest)) s =
      (match b0.toNat / 16 with
        | 0 => exec (.pciSf h (BitVec.ofNat 4 b0.toNat) (b1 :: b2 :: rest)) s
        | 1 => exec (.pciFf h (BitVec.ofNat 12 (b0.toNat % 16 * 256 + b1.toNat)) (b2 :: rest)) s
        | 2 => exec (.pciCf h (BitVec.ofNat 4 b0.toNat) (b1 :: b2 :: rest)) s
        | 3 => exec (.pciFc h (BitVec.ofNat 4 b0.toNat) b1 b2 rest) s
        | _ => exec (.pciReserved h (BitVec.ofNat 4 (b0.toNat / 16)) (BitVec.ofNat 4 b0.toNat) (b1 :: b2 :: rest)) s)

/-- R151: only a First frame or an accepted Consecutive frame changes the reassembly context, and a completed transfer delivers exactly
RA_SIZE bytes. -/
def Obligations.OnlySegmentsChangeReassembly : Prop :=
  ∀ (r : FrameRecord) (s t : State), exec (.rxframe r) s = .next t →
    (t.ra ≠ s.ra →
      (∃ prio dst src ffDl payload,
        classifyFrame s.cfg r.canId r.len.toNat r.data = .ok (.svcFirst prio dst src ffDl payload)) ∨
      (s.ra.active = true ∧ ∃ prio dst src sn payload, sn.toNat = (s.ra.lastIdx.toNat + 1) % 16 ∧
        classifyFrame s.cfg r.canId r.len.toNat r.data = .ok (.svcConsecutive prio dst src sn payload))) ∧
    (∀ m, t.ra ≠ s.ra → t.msgq = s.msgq ++ [m] → m.bytes.length = s.ra.size.toNat ∧ m.len = s.ra.size) ∧
    (s.ra.count.toNat ≤ s.ra.size.toNat → t.ra.count.toNat ≤ t.ra.size.toNat)

/-- R58, R140, R247: a frame that needs a push to a full queue has no step. That a stalled frame is a next state with the output "no
step" is the model's choice (log 3). -/
def Obligations.FullQueueStallsArrival : Prop :=
  ∀ (r : FrameRecord) (s : State),
    (∀ e, classifyFrame s.cfg r.canId r.len.toNat r.data = .error e → ¬ belowDepth s.cfg.qErr s.errq.length →
      exec (.rxframe r) s = .next { s with out := .noStep }) ∧
    (∀ prio doid src payload, classifyFrame s.cfg r.canId r.len.toNat r.data = .ok (.pubSingle prio doid src payload) →
      ¬ belowDepth s.cfg.qMsg s.msgq.length → exec (.rxframe r) s = .next { s with out := .noStep }) ∧
    (∀ prio dst src payload, classifyFrame s.cfg r.canId r.len.toNat r.data = .ok (.svcSingle prio dst src payload) →
      ¬ belowDepth s.cfg.qMsg s.msgq.length → exec (.rxframe r) s = .next { s with out := .noStep }) ∧
    (∀ prio dst src ffDl payload,
      classifyFrame s.cfg r.canId r.len.toNat r.data = .ok (.svcFirst prio dst src ffDl payload) →
      ¬ belowDepth s.cfg.qTx s.txq.length → exec (.rxframe r) s = .next { s with out := .noStep }) ∧
    (∀ prio dst src sn payload,
      classifyFrame s.cfg r.canId r.len.toNat r.data = .ok (.svcConsecutive prio dst src sn payload) →
      s.ra.active = true → sn.toNat = (s.ra.lastIdx.toNat + 1) % 16 → s.ra.count.toNat ≤ s.ra.size.toNat →
      s.ra.size.toNat ≤ s.ra.count.toNat + payload.length →
      ¬ belowDepth s.cfg.qMsg s.msgq.length → exec (.rxframe r) s = .next { s with out := .noStep })

/-! ### The send path -/

/-- R170: WRBUF writes one byte of TX_BUF in IDLE, refuses an operand out of range, and has no step during a send. That a held command
is a next state with the output "no step" is the model's choice (log 3). -/
def Obligations.WrbufWritesOneByte : Prop :=
  ∀ (a b : Word) (s : State),
    (s.tx.state = .idle → a.toNat ≤ 4094 → b.toNat ≤ 255 →
      ∃ buf : Memory,
        exec (.wrbuf a b) s =
          .next { s with tx := { s.tx with buf := buf }, out := .response ⟨.success, 0, 0, 0, 0⟩ } ∧
        Memory.read buf a.toNat = some (BitVec.ofNat 8 b.toNat) ∧
        (∀ i, i ≠ a.toNat → Memory.read buf i = Memory.read s.tx.buf i)) ∧
    (s.tx.state = .idle → 4094 < a.toNat ∨ 255 < b.toNat →
      exec (.wrbuf a b) s = .next { s with out := errorAnswer .invalidField }) ∧
    (s.tx.state ≠ .idle → exec (.wrbuf a b) s = .next { s with out := .noStep })

/-- R171 (its range checks and its enabling condition), R58: a SEND with an operand out of range sends no frame and records
InvalidField, whatever TXQ holds; a SEND during a send has no step, and no more has one with legal operands and a full TXQ, whether or
not its bytes are written (log 8). That a held command is a next state with the output "no step" is the model's choice (log 3). -/
def Obligations.SendRejectsBadOperands : Prop :=
  ∀ (a b c d : Word) (s : State),
    (s.tx.state = .idle → 7 < a.toNat ∨ 255 < b.toNat ∨ 255 < c.toNat ∨ 4095 < d.toNat →
      exec (.send a b c d) s =
        .next { s with tx := { s.tx with done := true, result := .invalidField }, out := errorAnswer .invalidField }) ∧
    (s.tx.state = .idle → a.toNat ≤ 7 → b.toNat ≤ 255 → c.toNat ≤ 255 → d.toNat ≤ 4095 →
      ¬ belowDepth s.cfg.qTx s.txq.length → exec (.send a b c d) s = .next { s with out := .noStep }) ∧
    (s.tx.state ≠ .idle → exec (.send a b c d) s = .next { s with out := .noStep })

/-- R172: a SEND of at most 7 written bytes pushes one Single frame and ends with success; no other register of the TX engine but TX_ID
changes. -/
def Obligations.ShortSendPushesSingleFrame : Prop :=
  ∀ (a b c d : Word) (s : State),
    s.tx.state = .idle → a.toNat ≤ 7 → b.toNat ≤ 255 → c.toNat ≤ 255 → d.toNat ≤ 7 →
    Memory.writtenBelow s.tx.buf d.toNat → belowDepth s.cfg.qTx s.txq.length →
    ∃ (id : Ident) (f : FrameRecord) (payload : List Byte),
      exec (.send a b c d) s =
        .next { s with
          tx := { s.tx with id := id, done := true, result := .success }
          txq := s.txq ++ [f]
          out := .response ⟨.success, 0, 0, 0, 0⟩ } ∧
      id.toNat = svcIdNumber s.cfg a.toNat s.cfg.svcMarker.toNat b.toNat c.toNat ∧
      payload.length = d.toNat ∧ (∀ i, i < d.toNat → payload[i]? = Memory.read s.tx.buf i) ∧
      Transmits f id.toNat (BitVec.ofNat 8 d.toNat :: payload)

/-- R173: a SEND of 8 to 4095 written bytes pushes the First frame and waits for a FlowControl frame with a fresh timeout. -/
def Obligations.LongSendPushesFirstFrame : Prop :=
  ∀ (a b c d : Word) (s : State),
    s.tx.state = .idle → a.toNat ≤ 7 → b.toNat ≤ 255 → c.toNat ≤ 255 → 8 ≤ d.toNat → d.toNat ≤ 4095 →
    Memory.writtenBelow s.tx.buf d.toNat → belowDepth s.cfg.qTx s.txq.length →
    ∃ (id : Ident) (f : FrameRecord) (payload : List Byte),
      exec (.send a b c d) s =
        .next { s with
          tx :=
            { s.tx with
              state := .waitFc, id := id, len := BitVec.ofNat 12 d.toNat, pos := 6, idx := 1, bs := 0, st := 0, blkCnt := 0,
              timer := 5000, done := false, result := .success }
          txq := s.txq ++ [f]
          out := .response ⟨.success, 0, 0, 0, 0⟩ } ∧
      id.toNat = svcIdNumber s.cfg a.toNat s.cfg.svcMarker.toNat b.toNat c.toNat ∧
      payload.length = 6 ∧ (∀ i, i < 6 → payload[i]? = Memory.read s.tx.buf i) ∧
      Transmits f id.toNat
        (BitVec.ofNat 8 (0x10 + d.toNat / 256) :: BitVec.ofNat 8 (d.toNat % 256) :: payload)

/-- R178: a SEND that would read a byte no WRBUF wrote is a fault. -/
def Obligations.SendOfUnwrittenByteFaults : Prop :=
  ∀ (a b c d : Word) (s : State),
    s.tx.state = .idle → a.toNat ≤ 7 → b.toNat ≤ 255 → c.toNat ≤ 255 → d.toNat ≤ 4095 →
    belowDepth s.cfg.qTx s.txq.length → ¬ Memory.writtenBelow s.tx.buf d.toNat →
    exec (.send a b c d) s = .fault .txByteUnwritten

/-- R180, R181, R182, R187: what the TX engine does with a stored tuple in WAIT_FC, by its flag and whatever TX_TIMER holds. That the
table's flow-status rows are this consumption is the model's choice (log 7): the row of the flag completes so, TXSTEP does the same, and
a row has no step when the flag is another one, outside WAIT_FC, or without a tuple. That no step is a next state with the output "no
step" is the model's choice too (log 3). -/
def Obligations.StoredTupleIsConsumedByFlag : Prop :=
  ∀ (s : State),
    let fc : FlowControl := { s.fc with valid := false }
    let held : Result := .next { s with out := .noStep }
    (s.tx.state = .waitFc → s.fc.valid = true →
      (s.fc.flag = 0 →
        exec .fcContinue s =
          .next { s with
            fc := fc
            tx := { s.tx with state := .sendCf, bs := s.fc.bs, st := s.fc.st, blkCnt := 0 }
            out := .nothing } ∧
        exec .txstep s = exec .fcContinue s) ∧
      (s.fc.flag = 1 →
        exec .fcWait s =
          .next { s with fc := fc, tx := { s.tx with state := .waitPause, timer := s.cfg.waitInterval }, out := .nothing } ∧
        exec .txstep s = exec .fcWait s) ∧
      (s.fc.flag = 2 →
        exec .fcAbort s =
          .next { s with fc := fc, tx := { s.tx with state := .idle, done := true, result := .aborted }, out := .nothing } ∧
        exec .txstep s = exec .fcAbort s) ∧
      (∀ fs : BitVec 4, 3 ≤ fs.toNat → s.fc.flag = fs →
        exec (.fcReserved fs) s =
          .next { s with fc := fc, tx := { s.tx with state := .idle, done := true, result := .aborted }, out := .nothing } ∧
        exec .txstep s = exec (.fcReserved fs) s) ∧
      (s.fc.flag ≠ 0 → exec .fcContinue s = held) ∧
      (s.fc.flag ≠ 1 → exec .fcWait s = held) ∧
      (s.fc.flag ≠ 2 → exec .fcAbort s = held) ∧
      (∀ fs, s.fc.flag ≠ fs → exec (.fcReserved fs) s = held)) ∧
    (s.tx.state ≠ .waitFc ∨ s.fc.valid = false →
      exec .fcContinue s = held ∧ exec .fcWait s = held ∧ exec .fcAbort s = held ∧
        ∀ fs : BitVec 4, exec (.fcReserved fs) s = held)

/-- R184: SEND_CF pushes the next Consecutive frame and goes on by the completion test first, then the end of a block, then the
separation delay. -/
def Obligations.ConsecutiveFrameIsSent : Prop :=
  ∀ (s : State), s.tx.state = .sendCf → s.tx.pos.toNat < s.tx.len.toNat → Memory.writtenBelow s.tx.buf s.tx.len.toNat →
    belowDepth s.cfg.qTx s.txq.length →
    let n := min 7 (s.tx.len.toNat - s.tx.pos.toNat)
    ∃ (f : FrameRecord) (payload : List Byte) (tx : TxEngine),
      exec .txstep s = .next { s with tx := tx, txq := s.txq ++ [f], out := .nothing } ∧
      payload.length = n ∧ (∀ i, i < n → payload[i]? = Memory.read s.tx.buf (s.tx.pos.toNat + i)) ∧
      Transmits f s.tx.id.toNat (BitVec.ofNat 8 (0x20 + s.tx.idx.toNat) :: payload) ∧
      tx = { s.tx with
        state := tx.state, pos := tx.pos, idx := tx.idx, blkCnt := tx.blkCnt, timer := tx.timer, done := tx.done,
        result := tx.result } ∧
      tx.pos.toNat = s.tx.pos.toNat + n ∧ tx.idx.toNat = (s.tx.idx.toNat + 1) % 16 ∧
      tx.blkCnt.toNat = (s.tx.blkCnt.toNat + 1) % 256 ∧
      (if s.tx.pos.toNat + n = s.tx.len.toNat then
        tx.state = .idle ∧ tx.done = true ∧ tx.result = .success ∧ tx.timer = s.tx.timer
      else if s.tx.bs ≠ 0 ∧ (s.tx.blkCnt.toNat + 1) % 256 = s.tx.bs.toNat then
        tx.state = .waitFc ∧ tx.timer = 5000 ∧ tx.done = s.tx.done ∧ tx.result = s.tx.result
      else
        tx.state = .sepDelay ∧ tx.timer.toNat = separationTicks s.tx.st.toNat ∧ tx.done = s.tx.done ∧
          tx.result = s.tx.result)

/-- R185, R186, R188: the transitions of an expired timer; under REWAIT a stored tuple is kept, under RESUME the window is. -/
def Obligations.ExpiredTimerTransitions : Prop :=
  ∀ (s : State), s.tx.timer = 0 →
    (s.tx.state = .sepDelay → exec .txstep s = .next { s with tx := { s.tx with state := .sendCf }, out := .nothing }) ∧
    (s.tx.state = .waitPause → s.cfg.waitPolicy = .rewait →
      exec .txstep s = .next { s with tx := { s.tx with state := .waitFc, timer := 5000 }, out := .nothing }) ∧
    (s.tx.state = .waitPause → s.cfg.waitPolicy = .resume →
      exec .txstep s = .next { s with tx := { s.tx with state := .sendCf, blkCnt := 0 }, out := .nothing }) ∧
    (s.tx.state = .waitFc → s.fc.valid = false →
      exec .txstep s =
        .next { s with tx := { s.tx with state := .idle, done := true, result := .flowControlTimeout }, out := .nothing })

/-- R58, R60, R191: in a state that meets the invariant TXSTEP has a step exactly when one transition is enabled and, in SEND_CF, TXQ
has room. That no step is a next state with the output "no step" is the model's choice (log 3). -/
def Obligations.TxstepEnabledExactly : Prop :=
  ∀ (s : State), s.Inv →
    let enabled :=
      (s.tx.state = .sendCf ∧ belowDepth s.cfg.qTx s.txq.length) ∨
      (s.tx.state = .waitFc ∧ (s.fc.valid = true ∨ s.tx.timer = 0)) ∨
      ((s.tx.state = .sepDelay ∨ s.tx.state = .waitPause) ∧ s.tx.timer = 0)
    (enabled → ∃ t, exec .txstep s = .next t ∧ t.out = .nothing) ∧
    (¬ enabled → exec .txstep s = .next { s with out := .noStep })

/-- R190: TICK is always enabled, counts TX_TIMER down in a timed state, stops at 0, and has no other effect. -/
def Obligations.TickCountsTimerDown : Prop :=
  ∀ (s : State), ∃ timer : BitVec 32,
    exec .tick s = .next { s with tx := { s.tx with timer := timer }, out := .nothing } ∧
    timer.toNat =
      (if s.tx.state = .waitFc ∨ s.tx.state = .sepDelay ∨ s.tx.state = .waitPause then s.tx.timer.toNat - 1
       else s.tx.timer.toNat)

/-- R195: counting from a timed state whose timer holds T, the timed transition is enabled after exactly T ticks and not before. That a
transition not yet enabled is a next state with the output "no step" is the model's choice (log 3). -/
def Obligations.TimerExpiresAfterExactlyItsTicks : Prop :=
  ∀ (s : State) (n : Nat),
    s.tx.state = .waitFc ∧ s.fc.valid = false ∨ s.tx.state = .sepDelay ∨ s.tx.state = .waitPause →
    ∃ t, execAll (List.replicate n .tick) s = .next t ∧
      t = { s with tx := { s.tx with timer := t.tx.timer }, out := t.out } ∧
      t.tx.timer.toNat = s.tx.timer.toNat - n ∧
      (n < s.tx.timer.toNat → exec .txstep t = .next { t with out := .noStep }) ∧
      (s.tx.timer.toNat ≤ n → ∃ u, exec .txstep t = .next u ∧ u.out = .nothing ∧ u.tx.state ≠ s.tx.state)

/-- R175: the separation time in ticks, for every byte. -/
def Obligations.SeparationTimeInTicks : Prop := ∀ v : Byte, stTicks v = separationTicks v.toNat

/-! ### Queues and reset -/

/-- R58 (its pops): a pop removes and returns the oldest entry and changes nothing else; on an empty queue it is not enabled. That a pop
not enabled is a next state with the output "no step" is the model's choice (log 3). -/
def Obligations.PopsReturnOldestEntry : Prop :=
  ∀ (s : State),
    (∀ f rest, s.txq = f :: rest → exec .poptx s = .next { s with txq := rest, out := .frame f }) ∧
    (∀ m rest, s.msgq = m :: rest → exec .popmsg s = .next { s with msgq := rest, out := .message m }) ∧
    (∀ e rest, s.errq = e :: rest → exec .poperr s = .next { s with errq := rest, out := .report e }) ∧
    (s.txq = [] → exec .poptx s = .next { s with out := .noStep }) ∧
    (s.msgq = [] → exec .popmsg s = .next { s with out := .noStep }) ∧
    (s.errq = [] → exec .poperr s = .next { s with out := .noStep })

/-- R240, R241: RESET, from every state, gives every register its reset value and empties the queues, and the state it leaves is the
initial state. That the ports and the turns to come stay is the model's choice (log 2), and so is that a byte of an unspecified buffer
holds no value (log 5). -/
def Obligations.ResetGivesResetValues : Prop :=
  ∀ (s : State), ∃ t, exec .reset s = .next t ∧
    (t.ra.active = false ∧ t.ra.size = 0 ∧ t.ra.count = 0 ∧ t.ra.lastIdx = 0 ∧ t.ra.prio = 0 ∧ t.ra.dst = 0 ∧ t.ra.src = 0) ∧
    (t.fc.valid = false ∧ t.fc.flag = 0 ∧ t.fc.bs = 0 ∧ t.fc.st = 0) ∧
    (t.tx.state = .idle ∧ t.tx.id = 0 ∧ t.tx.len = 0 ∧ t.tx.pos = 0 ∧ t.tx.idx = 0 ∧ t.tx.bs = 0 ∧ t.tx.st = 0 ∧
      t.tx.blkCnt = 0 ∧ t.tx.timer = 0 ∧ t.tx.done = false ∧ t.tx.result = .success) ∧
    (t.txq = [] ∧ t.msgq = [] ∧ t.errq = []) ∧
    (∀ i, Memory.read t.ra.buf i = none ∧ Memory.read t.tx.buf i = none) ∧
    (t.cfg = s.cfg ∧ t.cmdPort = s.cmdPort ∧ t.rxPort = s.rxPort ∧ t.sched = s.sched) ∧
    { t with cfg := Config.params, cmdPort := [], rxPort := [], sched := [] } = State.reset

/-- R241: after RESET both sides are idle: a Consecutive frame is dropped, WRBUF and SEND are accepted, no tuple is held, and STATUS
reads zeros. -/
def Obligations.ResetLeavesBlockIdle : Prop :=
  ∀ (s t : State), exec .reset s = .next t →
    (∀ h sn rest, 1 ≤ h.len.toNat → h.len.toNat ≤ 8 → exec (.pciCf h sn rest) t = .next { t with out := .nothing }) ∧
    (∀ a b : Word, a.toNat ≤ 4094 → b.toNat ≤ 255 →
      ∃ u, exec (.wrbuf a b) t = .next u ∧ u.out = .response ⟨.success, 0, 0, 0, 0⟩) ∧
    (∀ a b c : Word, a.toNat ≤ 7 → b.toNat ≤ 255 → c.toNat ≤ 255 →
      ∃ u, exec (.send a b c 0) t = .next u ∧ u.out = .response ⟨.success, 0, 0, 0, 0⟩) ∧
    t.fc.valid = false ∧
    exec .status t = .next { t with out := .response ⟨.success, 0, 0, 0, 0⟩ }

/-! ### Whole-machine rules -/

/-- The invariant holds right after reset, under the parameters the model starts with (log 16) and under every other legal setting. -/
def Obligations.InvariantHoldsAtReset : Prop :=
  State.reset.Inv ∧ ∀ p : Config.Params, p.wf → State.Inv { State.reset with cfg := p }

/-- R25, R27, R32, R52, R54, R151, R194, R249: every step from a state that meets the invariant keeps it. -/
def Obligations.StepKeepsInvariant : Prop := ∀ s t : State, s.Inv → step s = .next t → t.Inv

/-- R7: no step changes a parameter. -/
def Obligations.StepKeepsParameters : Prop := ∀ s t : State, step s = .next t → t.cfg = s.cfg

/-- R24, R223: the reassembly context is written only by an arriving frame and by RESET; the TX engine's registers never by an arriving
frame. -/
def Obligations.EnginesWriteTheirOwnRegisters : Prop :=
  ∀ (i : Instr) (s t : State), exec i s = .next t →
    (i.isArrival = false → i ≠ .reset → t.ra = s.ra) ∧ (i.isArrival = true → t.tx = s.tx)

/-- R29: FC_VALID is set only by an arriving frame, and cleared only by a TX-engine transition in WAIT_FC and by RESET. -/
def Obligations.FlowRegisterHandoff : Prop :=
  ∀ (i : Instr) (s t : State), exec i s = .next t →
    (s.fc.valid = false → t.fc.valid = true → i.isArrival = true ∧ s.acceptsFlow = true) ∧
    (s.fc.valid = true → t.fc.valid = false → i = .reset ∨ (i.isTransition = true ∧ s.tx.state = .waitFc)) ∧
    (t.fc.flag ≠ s.fc.flag ∨ t.fc.bs ≠ s.fc.bs ∨ t.fc.st ≠ s.fc.st → i.isArrival = true ∨ i = .reset)

/-- R66: TX_BUF is written only by WRBUF, only in IDLE, and by RESET. -/
def Obligations.TxBufferWrittenOnlyWhileIdle : Prop :=
  ∀ (i : Instr) (s t : State), exec i s = .next t → t.tx.buf ≠ s.tx.buf →
    i = .reset ∨ (s.tx.state = .idle ∧ ∃ a b, i = .wrbuf a b)

/-- R192: only a TX-engine transition and RESET return TX_STATE to IDLE. -/
def Obligations.OnlyTransitionsEndSend : Prop :=
  ∀ (i : Instr) (s t : State), exec i s = .next t → s.tx.state ≠ .idle → t.tx.state = .idle →
    i.isTransition = true ∨ i = .reset

/-- R34, R61: each queue is first-in first-out: a step appends at most one entry at the end, or a pop takes the oldest, or RESET empties
it. -/
def Obligations.QueuesAreFirstInFirstOut : Prop :=
  ∀ (i : Instr) (s t : State), exec i s = .next t →
    ((∃ new, t.txq = s.txq ++ new ∧ new.length ≤ 1) ∨ (i = .poptx ∧ ∃ f, s.txq = f :: t.txq ∧ t.out = .frame f) ∨
      (i = .reset ∧ t.txq = [])) ∧
    ((∃ new, t.msgq = s.msgq ++ new ∧ new.length ≤ 1) ∨ (i = .popmsg ∧ ∃ m, s.msgq = m :: t.msgq ∧ t.out = .message m) ∨
      (i = .reset ∧ t.msgq = [])) ∧
    ((∃ new, t.errq = s.errq ++ new ∧ new.length ≤ 1) ∨ (i = .poperr ∧ ∃ e, s.errq = e :: t.errq ∧ t.out = .report e) ∨
      (i = .reset ∧ t.errq = []))

/-- R213, R217: a command error writes nothing but its code, and, for SEND, TX_DONE and TX_RESULT. -/
def Obligations.CommandErrorsArePrecise : Prop :=
  ∀ (i : Instr) (s t : State) (r : Response), exec i s = .next t → t.out = .response r → r.s ≠ .success →
    t.out = errorAnswer r.s ∧
    (t = { s with out := t.out } ∨
      ((∃ a b c d, i = .send a b c d) ∧
        t = { s with tx := { s.tx with done := true, result := .invalidField }, out := t.out }))

/-- R213: no instruction stops the block in a state that meets the invariant, but a SEND of a byte that was never written (R178). -/
def Obligations.OnlyUnwrittenSendStops : Prop :=
  ∀ (i : Instr) (s : State), s.Inv →
    (∃ t, exec i s = .next t) ∨
      (∃ a b c d, i = .send a b c d ∧ exec i s = .fault .txByteUnwritten ∧ ¬ Memory.writtenBelow s.tx.buf d.toNat)

/-! ### Headline results -/

/-- R152 (its receive half): the frames of a send of any payload of up to 4095 bytes, delivered in order, give exactly one message whose
bytes are the payload, no report, and one Continue reply when the send is segmented. -/
def Obligations.SegmentsReassembleToPayload : Prop :=
  ∀ (prio : BitVec 3) (dst src : BitVec 8) (payload : List Byte) (s : State),
    s.cfg.wf → payload.length ≤ 4095 → belowDepth s.cfg.qTx s.txq.length → belowDepth s.cfg.qMsg s.msgq.length →
    ∃ t, execAll ((segments (svcIdNumber s.cfg prio.toNat s.cfg.svcMarker.toNat dst.toNat src.toNat) payload).map .rxframe) s
        = .next t ∧
      t.msgq = s.msgq ++
        [⟨.service, prio, BitVec.ofNat 16 dst.toNat, src, BitVec.ofNat 12 payload.length, payload⟩] ∧
      t.errq = s.errq ∧ t.tx = s.tx ∧ t.fc = s.fc ∧
      (payload.length ≤ 7 → t.txq = s.txq ∧ t.ra = s.ra) ∧
      (8 ≤ payload.length → t.ra.active = false ∧ ∃ reply, t.txq = s.txq ++ [reply] ∧
        Transmits reply (svcIdNumber s.cfg prio.toNat s.cfg.svcMarker.toNat src.toNat dst.toNat) [0x30, 0x00, 0x00])

/-- R176: a segmented send whose peer grants the whole window at once, with room in TXQ for all its frames, pushes exactly the First frame
and ceil((L-6)/7) Consecutive frames of its payload, in order, and ends with success. -/
def Obligations.SendPushesAllSegments : Prop :=
  ∀ (a b c d : Word) (payload : List Byte) (h : ServiceHead) (rest : List Byte) (s : State),
    s.tx.state = .idle → depthAdmits s.cfg.qTx (s.txq.length + (1 + consecutiveCount d.toNat)) →
    a.toNat ≤ 7 → b.toNat ≤ 255 → c.toNat ≤ 255 →
    8 ≤ d.toNat → d.toNat ≤ 4095 → payload.length = d.toNat → (∀ i, i < d.toNat → Memory.read s.tx.buf i = payload[i]?) →
    3 ≤ h.len.toNat → h.len.toNat ≤ 8 →
    ∃ t, execAll (.send a b c d :: .pciFc h 0 0 0 rest :: .txstep ::
          List.replicate (2 * consecutiveCount d.toNat - 1) .txstep) s = .next t ∧
      t.txq = s.txq ++ segments (svcIdNumber s.cfg a.toNat s.cfg.svcMarker.toNat b.toNat c.toNat) payload ∧
      (segments (svcIdNumber s.cfg a.toNat s.cfg.svcMarker.toNat b.toNat c.toNat) payload).length =
        1 + consecutiveCount d.toNat ∧
      t.tx.state = .idle ∧ t.tx.done = true ∧ t.tx.result = .success
end

