-- ==== Sys2Proof/Laws/Bits.lean ====
section
/-! SUPPORT. The identifier layouts, PCI bytes and can_id words as numbers, and the round trips of their fields. -/

namespace Sys2Proof

/-- Concatenation as a number: the left part counts in units of the right part's range. -/
theorem toNat_append {m n : Nat} (x : BitVec m) (y : BitVec n) : (x ++ y).toNat = x.toNat * 2 ^ n + y.toNat := by
  rw [BitVec.toNat_append, ← Nat.shiftLeft_add_eq_or_of_lt y.isLt, Nat.shiftLeft_eq]

/-- A bit slice as a number. -/
theorem toNat_slice {w : Nat} (x : BitVec w) (lo n : Nat) : (x.extractLsb' lo n).toNat = x.toNat / 2 ^ lo % 2 ^ n := by
  rw [BitVec.extractLsb'_toNat, Nat.shiftRight_eq_div_pow]

/-- The Publication identifier as a number (R71). -/
theorem pubIdent_toNat (p : Config.Params) (prio : BitVec 3) (doid : BitVec 16) (src : BitVec 8) :
    (pubIdent p prio doid src).toNat =
      prio.toNat * 2 ^ 26 + p.pubDisc.toNat * 2 ^ 24 + doid.toNat * 2 ^ 8 + src.toNat := by
  have h : (pubIdent p prio doid src).toNat = (prio ++ p.pubDisc ++ doid ++ src).toNat := rfl
  rw [h, toNat_append, toNat_append, toNat_append]
  ring

/-- The Service identifier as a number (R72). -/
theorem svcIdent_toNat (p : Config.Params) (prio : BitVec 3) (marker dst src : BitVec 8) :
    (svcIdent p prio marker dst src).toNat =
      prio.toNat * 2 ^ 26 + p.svcDisc.toNat * 2 ^ 24 + marker.toNat * 2 ^ 16 + dst.toNat * 2 ^ 8 + src.toNat := by
  have h : (svcIdent p prio marker dst src).toNat = (prio ++ p.svcDisc ++ marker ++ dst ++ src).toNat := rfl
  rw [h, toNat_append, toNat_append, toNat_append, toNat_append]
  ring

/-- The can_id of an extended frame as a number (R52). -/
theorem extCanId_toNat (id : Ident) : (extCanId id).toNat = 2 ^ 31 + id.toNat := by
  have h : (extCanId id).toNat = (0b100#3 ++ id).toNat := rfl
  rw [h, toNat_append]
  rfl

/-- A PCI byte as a number (R74). -/
theorem pciByte_toNat (nib low : BitVec 4) : (pciByte nib low).toNat = 16 * nib.toNat + low.toNat := by
  have h : (pciByte nib low).toNat = (nib ++ low).toNat := rfl
  rw [h, toNat_append]
  omega

theorem identPrio_toNat (id : Ident) : (identPrio id).toNat = id.toNat / 2 ^ 26 := by
  have h := id.isLt
  rw [identPrio, toNat_slice]
  omega

theorem identDisc_toNat (id : Ident) : (identDisc id).toNat = id.toNat / 2 ^ 24 % 4 := toNat_slice id 24 2
theorem identDoid_toNat (id : Ident) : (identDoid id).toNat = id.toNat / 2 ^ 8 % 2 ^ 16 := toNat_slice id 8 16
theorem identMarker_toNat (id : Ident) : (identMarker id).toNat = id.toNat / 2 ^ 16 % 256 := toNat_slice id 16 8
theorem identDst_toNat (id : Ident) : (identDst id).toNat = id.toNat / 2 ^ 8 % 256 := toNat_slice id 8 8

theorem identSrc_toNat (id : Ident) : (identSrc id).toNat = id.toNat % 256 := by
  rw [identSrc, toNat_slice, Nat.pow_zero, Nat.div_one]
  norm_num

theorem hiNibble_toNat (b : Byte) : (hiNibble b).toNat = b.toNat / 16 := by
  have h := b.isLt
  rw [hiNibble, toNat_slice]
  omega

theorem loNibble_toNat (b : Byte) : (loNibble b).toNat = b.toNat % 16 := by
  rw [loNibble, toNat_slice, Nat.pow_zero, Nat.div_one]
  norm_num

section Fields

variable (p : Config.Params) (prio : BitVec 3) (doid : BitVec 16) (marker dst src : BitVec 8) (nib low : BitVec 4)

@[simp] theorem identPrio_pubIdent : identPrio (pubIdent p prio doid src) = prio := by
  have := p.pubDisc.isLt; have := doid.isLt; have := src.isLt
  apply BitVec.eq_of_toNat_eq; rw [identPrio_toNat, pubIdent_toNat]; omega

@[simp] theorem identDisc_pubIdent : identDisc (pubIdent p prio doid src) = p.pubDisc := by
  have := p.pubDisc.isLt; have := doid.isLt; have := src.isLt
  apply BitVec.eq_of_toNat_eq; rw [identDisc_toNat, pubIdent_toNat]; omega

@[simp] theorem identDoid_pubIdent : identDoid (pubIdent p prio doid src) = doid := by
  have := p.pubDisc.isLt; have := doid.isLt; have := src.isLt
  apply BitVec.eq_of_toNat_eq; rw [identDoid_toNat, pubIdent_toNat]; omega

@[simp] theorem identSrc_pubIdent : identSrc (pubIdent p prio doid src) = src := by
  have := p.pubDisc.isLt; have := doid.isLt; have := src.isLt
  apply BitVec.eq_of_toNat_eq; rw [identSrc_toNat, pubIdent_toNat]; omega

@[simp] theorem identPrio_svcIdent : identPrio (svcIdent p prio marker dst src) = prio := by
  have := p.svcDisc.isLt; have := marker.isLt; have := dst.isLt; have := src.isLt
  apply BitVec.eq_of_toNat_eq; rw [identPrio_toNat, svcIdent_toNat]; omega

@[simp] theorem identDisc_svcIdent : identDisc (svcIdent p prio marker dst src) = p.svcDisc := by
  have := p.svcDisc.isLt; have := marker.isLt; have := dst.isLt; have := src.isLt
  apply BitVec.eq_of_toNat_eq; rw [identDisc_toNat, svcIdent_toNat]; omega

@[simp] theorem identMarker_svcIdent : identMarker (svcIdent p prio marker dst src) = marker := by
  have := p.svcDisc.isLt; have := marker.isLt; have := dst.isLt; have := src.isLt
  apply BitVec.eq_of_toNat_eq; rw [identMarker_toNat, svcIdent_toNat]; omega

@[simp] theorem identDst_svcIdent : identDst (svcIdent p prio marker dst src) = dst := by
  have := p.svcDisc.isLt; have := marker.isLt; have := dst.isLt; have := src.isLt
  apply BitVec.eq_of_toNat_eq; rw [identDst_toNat, svcIdent_toNat]; omega

@[simp] theorem identSrc_svcIdent : identSrc (svcIdent p prio marker dst src) = src := by
  have := p.svcDisc.isLt; have := marker.isLt; have := dst.isLt; have := src.isLt
  apply BitVec.eq_of_toNat_eq; rw [identSrc_toNat, svcIdent_toNat]; omega

@[simp] theorem hiNibble_pciByte : hiNibble (pciByte nib low) = nib := by
  have := low.isLt
  apply BitVec.eq_of_toNat_eq; rw [hiNibble_toNat, pciByte_toNat]; omega

@[simp] theorem loNibble_pciByte : loNibble (pciByte nib low) = low := by
  have := low.isLt
  apply BitVec.eq_of_toNat_eq; rw [loNibble_toNat, pciByte_toNat]; omega

@[simp] theorem pciByte_nibbles (b : Byte) : pciByte (hiNibble b) (loNibble b) = b := by
  apply BitVec.eq_of_toNat_eq; rw [pciByte_toNat, hiNibble_toNat, loNibble_toNat]; omega

/-- An identifier with any discriminator and low bits (row ID_RESERVED_DISC) as a number. -/
theorem reservedIdent_toNat (disc : BitVec 2) (rest : BitVec 24) :
    (prio ++ disc ++ rest : Ident).toNat = prio.toNat * 2 ^ 26 + disc.toNat * 2 ^ 24 + rest.toNat := by
  have h : (prio ++ disc ++ rest : Ident).toNat = (prio ++ disc ++ rest).toNat := rfl
  rw [h, toNat_append, toNat_append]
  ring

@[simp] theorem identDisc_reservedIdent (disc : BitVec 2) (rest : BitVec 24) :
    identDisc (prio ++ disc ++ rest : Ident) = disc := by
  have := disc.isLt; have := rest.isLt
  apply BitVec.eq_of_toNat_eq; rw [identDisc_toNat, reservedIdent_toNat]; omega

@[simp] theorem identPrio_reservedIdent (disc : BitVec 2) (rest : BitVec 24) :
    identPrio (prio ++ disc ++ rest : Ident) = prio := by
  have := disc.isLt; have := rest.isLt
  apply BitVec.eq_of_toNat_eq; rw [identPrio_toNat, reservedIdent_toNat]; omega

@[simp] theorem identLow_reservedIdent (disc : BitVec 2) (rest : BitVec 24) :
    (prio ++ disc ++ rest : Ident).extractLsb' 0 24 = rest := by
  have := disc.isLt; have := rest.isLt
  apply BitVec.eq_of_toNat_eq; rw [toNat_slice, reservedIdent_toNat]; omega

end Fields

/-- The identifier of an extended can_id is the one put in. -/
@[simp] theorem extCanId_ident (id : Ident) : (extCanId id).extractLsb' 0 29 = id := by
  have := id.isLt
  apply BitVec.eq_of_toNat_eq; rw [toNat_slice, extCanId_toNat]; omega

@[simp] theorem extCanId_eff (id : Ident) : (extCanId id).extractLsb' 31 1 = 1#1 := by
  have := id.isLt
  apply BitVec.eq_of_toNat_eq; rw [toNat_slice, extCanId_toNat]; simp; omega

@[simp] theorem extCanId_flags (id : Ident) : (extCanId id).extractLsb' 29 2 = 0#2 := by
  have := id.isLt
  apply BitVec.eq_of_toNat_eq; rw [toNat_slice, extCanId_toNat]; simp; omega

/-- The word of four bytes as a number (R53). -/
theorem wordOfBytes_toNat (b0 b1 b2 b3 : Byte) :
    (wordOfBytes b0 b1 b2 b3).toNat = b0.toNat + 2 ^ 8 * b1.toNat + 2 ^ 16 * b2.toNat + 2 ^ 24 * b3.toNat := by
  have h : (wordOfBytes b0 b1 b2 b3).toNat = (b3 ++ b2 ++ b1 ++ b0).toNat := rfl
  rw [h, toNat_append, toNat_append, toNat_append]
  ring

/-- A word put together from its own bytes. -/
@[simp] theorem wordOfBytes_slices (w : Word) :
    wordOfBytes (w.extractLsb' 0 8) (w.extractLsb' 8 8) (w.extractLsb' 16 8) (w.extractLsb' 24 8) = w := by
  have := w.isLt
  apply BitVec.eq_of_toNat_eq
  rw [wordOfBytes_toNat, toNat_slice, toNat_slice, toNat_slice, toNat_slice]
  omega

/-- The 12-bit length put together from its nibble and byte (R75). -/
@[simp] theorem ffDl_slices (v : BitVec 12) : (v.extractLsb' 8 4 ++ v.extractLsb' 0 8 : BitVec 12) = v := by
  have := v.isLt
  apply BitVec.eq_of_toNat_eq
  have h : (v.extractLsb' 8 4 ++ v.extractLsb' 0 8 : BitVec 12).toNat = (v.extractLsb' 8 4 ++ v.extractLsb' 0 8).toNat := rfl
  rw [h, toNat_append, toNat_slice, toNat_slice]
  omega

/-- The marker check as a condition on the marker (R121). -/
theorem markerOk_iff (p : Config.Params) (m : BitVec 8) :
    markerOk p m = true ↔ (p.strictMarker = true → m = p.svcMarker) := by
  cases h : p.strictMarker <;> simp [markerOk, h]

@[simp] theorem markerOk_svcMarker (p : Config.Params) : markerOk p p.svcMarker = true := by simp [markerOk]

/-- A well-formed head passes the marker check. -/
theorem ServiceHead.markerOk_of_wf {p : Config.Params} {h : ServiceHead} (hw : h.wf p = true) : markerOk p h.marker = true := by
  cases hs : p.strictMarker <;> simp_all [ServiceHead.wf, markerOk]

end Sys2Proof
end

