-- ==== Sys2Proof/Laws/Classifier.lean ====
section
/-! SUPPORT. What the classifier can answer. -/

namespace Sys2Proof.Machine

/-- Slicing from 0 is taking. -/
@[simp] theorem slice_zero (data : List Byte) (n : Nat) : slice data 0 n = data.take n := by simp [slice]

theorem slice_length (data : List Byte) (i j : Nat) : (slice data i j).length = min j data.length - i := by
  simp [slice]

/-- The identifier stage on a Publication identifier (R121). -/
@[simp] theorem identStage_pubIdent (p : Config.Params) (prio : BitVec 3) (doid : BitVec 16) (src : BitVec 8) :
    identStage p (extCanId (pubIdent p prio doid src)) = .ok (.pub prio doid src) := by
  simp [identStage]

/-- The identifier stage on a Service identifier with a marker that passes (R121). -/
theorem identStage_svcIdent {p : Config.Params} (hp : p.pubDisc ≠ p.svcDisc) (prio : BitVec 3) {marker : BitVec 8}
    (dst src : BitVec 8) (hm : markerOk p marker = true) :
    identStage p (extCanId (svcIdent p prio marker dst src)) = .ok (.svc prio dst src) := by
  simp [identStage, hm, Ne.symm hp]

/-- The identifier stage on a discriminator of neither family (R79). -/
theorem identStage_reservedIdent {p : Config.Params} (prio : BitVec 3) {disc : BitVec 2} (low : BitVec 24)
    (h1 : disc ≠ p.pubDisc) (h2 : disc ≠ p.svcDisc) :
    identStage p (extCanId (prio ++ disc ++ low : Ident)) = .error .malformedIdentifier := by
  simp [identStage, h1, h2]

/-- The identifier stage fails with MalformedIdentifier only (R121). -/
theorem identStage_error {p : Config.Params} {canId : Word} {e : ErrKind} (h : identStage p canId = .error e) :
    e = .malformedIdentifier := by
  simp only [identStage] at h
  split at h
  · cases h; rfl
  · split at h
    · cases h; rfl
    · split at h
      · cases h
      · split at h
        · split at h
          · cases h
          · cases h; rfl
        · cases h; rfl

/-- A Service frame fails with TruncatedFrame or UnknownFrameType (R124 to R129). -/
theorem classifyService_error {prio : BitVec 3} {dst src : BitVec 8} {len : Nat} {data : List Byte} {e : ErrKind}
    (h : classifyService prio dst src len data = .error e) : e = .truncatedFrame ∨ e = .unknownFrameType := by
  simp only [classifyService] at h
  split at h
  · cases h; exact .inl rfl
  · split at h
    · simp only [classifySingle] at h
      split at h
      · cases h; exact .inl rfl
      · cases h
    · simp only [classifyFirst] at h
      split at h
      · cases h; exact .inl rfl
      · cases h
    · cases h
    · simp only [classifyFlow] at h
      split at h
      · cases h; exact .inl rfl
      · cases h
    · cases h; exact .inr rfl

/-- classify fails with a code a received frame can report (R141). -/
theorem classifyFrame_error {p : Config.Params} {canId : Word} {len : Nat} {data : List Byte} {e : ErrKind}
    (h : classifyFrame p canId len data = .error e) :
    e = .invalidField ∨ e = .malformedIdentifier ∨ e = .truncatedFrame ∨ e = .unknownFrameType := by
  simp only [classifyFrame] at h
  split at h
  · cases h; exact .inl rfl
  · split at h
    · rename_i e' he
      cases h
      exact .inr (.inl (identStage_error he))
    · cases h
    · exact (classifyService_error h).elim (fun h => .inr (.inr (.inl h))) fun h => .inr (.inr (.inr h))

/-- What a classified frame is (R120): at most eight bytes, and a Publication variant or a Service classification. -/
theorem classifyFrame_ok {p : Config.Params} {canId : Word} {len : Nat} {data : List Byte} {v : Variant}
    (h : classifyFrame p canId len data = .ok v) :
    len ≤ 8 ∧ ((∃ prio doid src, identStage p canId = .ok (.pub prio doid src) ∧ v = .pubSingle prio doid src (data.take len)) ∨
      ∃ prio dst src, identStage p canId = .ok (.svc prio dst src) ∧ classifyService prio dst src len data = .ok v) := by
  unfold classifyFrame at h
  by_cases hl : Config.maxDlc < len
  · rw [if_pos hl] at h; cases h
  · rw [if_neg hl] at h
    refine ⟨by simpa [Config.maxDlc] using hl, ?_⟩
    cases hi : identStage p canId with
    | error e => rw [hi] at h; cases h
    | ok f =>
      rw [hi] at h
      cases f with
      | pub prio doid src =>
        injection h with h
        exact .inl ⟨prio, doid, src, rfl, by rw [← h, slice_zero]⟩
      | svc prio dst src => exact .inr ⟨prio, dst, src, rfl, h⟩

/-- A Single variant carries at most fifteen bytes. -/
theorem classifySingle_payload {prio prio' : BitVec 3} {dst src dst' src' : BitVec 8} {len : Nat} {data payload : List Byte}
    (h : classifySingle prio dst src len data = .ok (.svcSingle prio' dst' src' payload)) : payload.length < 16 := by
  simp only [classifySingle] at h
  split at h
  · cases h
  · injection h with h
    injection h with _ _ _ h
    have := (loNibble (byteAt data 0)).isLt
    rw [← h, slice_length]
    omega

/-- classifyService gives no Publication variant, and a Single variant of at most fifteen bytes. -/
theorem classifyService_ok {prio : BitVec 3} {dst src : BitVec 8} {len : Nat} {data : List Byte} {v : Variant}
    (h : classifyService prio dst src len data = .ok v) :
    (∃ payload, v = .svcSingle prio dst src payload ∧ payload.length < 16) ∨
      (∃ ffDl payload, v = .svcFirst prio dst src ffDl payload) ∨
      (∃ sn payload, v = .svcConsecutive prio dst src sn payload) ∨
      (∃ fs bs st, v = .svcFlowControl prio dst src fs bs st) := by
  simp only [classifyService] at h
  split at h
  · cases h
  · split at h
    · have h' := h
      simp only [classifySingle] at h
      split at h
      · cases h
      · cases h
        exact .inl ⟨_, rfl, classifySingle_payload h'⟩
    · simp only [classifyFirst] at h
      split at h
      · cases h
      · cases h; exact .inr (.inl ⟨_, _, rfl⟩)
    · cases h; exact .inr (.inr (.inl ⟨_, _, rfl⟩))
    · simp only [classifyFlow] at h
      split at h
      · cases h
      · cases h; exact .inr (.inr (.inr ⟨_, _, _, rfl⟩))
    · cases h

/-- A Publication variant carries at most eight bytes (R122, R123). -/
theorem classifyFrame_pub {p : Config.Params} {canId : Word} {len : Nat} {data : List Byte} {prio : BitVec 3} {doid : BitVec 16}
    {src : BitVec 8} {payload : List Byte} (h : classifyFrame p canId len data = .ok (.pubSingle prio doid src payload)) :
    payload.length ≤ 8 := by
  obtain ⟨hl, ⟨_, _, _, -, h⟩ | ⟨_, _, _, -, h⟩⟩ := classifyFrame_ok h
  · injection h with _ _ _ h
    rw [h, List.length_take]
    omega
  · obtain ⟨_, h, -⟩ | ⟨_, _, h⟩ | ⟨_, _, h⟩ | ⟨_, _, _, h⟩ := classifyService_ok h <;> cases h

/-- classify on a frame whose identifier is a Service identifier (R120, R124). -/
theorem classifyFrame_svcIdent {p : Config.Params} (hp : p.pubDisc ≠ p.svcDisc) (prio : BitVec 3) {marker : BitVec 8}
    (dst src : BitVec 8) (hm : markerOk p marker = true) {len : Nat} (hl : len ≤ 8) (data : List Byte) :
    classifyFrame p (extCanId (svcIdent p prio marker dst src)) len data = classifyService prio dst src len data := by
  simp [classifyFrame, Config.maxDlc, Nat.not_lt.mpr hl, identStage_svcIdent hp prio dst src hm]

end Sys2Proof.Machine
end

