-- ==== Sys2Proof/Laws/Memory.lean ====
section
/-! SUPPORT. The laws of the byte buffers: a write is read back, leaves every other byte alone, and keeps the canonical form. -/

namespace Sys2Proof.Machine

@[simp] theorem Memory.read_nil (i : Nat) : Memory.read [] i = none := rfl

/-- A write is read back. -/
@[simp] theorem Memory.read_write_self (m : Memory) (i : Nat) (b : Byte) : Memory.read (Memory.write m i b) i = some b := by
  induction m with
  | nil => simp [Memory.write, Memory.read]
  | cons c m ih =>
    obtain ⟨k, v⟩ := c
    simp only [Memory.write]
    split
    · simp [Memory.read]
    · split
      · simp [Memory.read]
      · rename_i h1 h2
        simp [Memory.read, Ne.symm h2, ih]

/-- A write leaves every other byte alone. -/
theorem Memory.read_write_other (m : Memory) {i j : Nat} (b : Byte) (h : j ≠ i) :
    Memory.read (Memory.write m i b) j = Memory.read m j := by
  induction m with
  | nil => simp [Memory.write, Memory.read, Ne.symm h]
  | cons c m ih =>
    obtain ⟨k, v⟩ := c
    simp only [Memory.write]
    split
    · simp [Memory.read, Ne.symm h]
    · split
      · rename_i h1 h2
        subst h2
        simp [Memory.read, Ne.symm h]
      · simp [Memory.read, ih]

/-- What a run of bytes written from an index reads as. -/
theorem Memory.read_writeBytes (m : Memory) (i j : Nat) (bs : List Byte) :
    Memory.read (Memory.writeBytes m i bs) j =
      if i ≤ j ∧ j < i + bs.length then bs[j - i]? else Memory.read m j := by
  induction bs generalizing m i with
  | nil =>
    have h : ¬ (i ≤ j ∧ j < i + ([] : List Byte).length) := by simp
    rw [if_neg h, Memory.writeBytes]
  | cons b bs ih =>
    rw [Memory.writeBytes, ih]
    by_cases hj : j = i
    · subst hj; simp
    · by_cases h : i ≤ j ∧ j < i + (b :: bs).length
      · have h' : i + 1 ≤ j ∧ j < i + 1 + bs.length := by simp only [List.length_cons] at h; omega
        have e : j - i = j - (i + 1) + 1 := by omega
        rw [if_pos h, if_pos h', e, List.getElem?_cons_succ]
      · have h' : ¬ (i + 1 ≤ j ∧ j < i + 1 + bs.length) := by simp only [List.length_cons] at h; omega
        rw [if_neg h, if_neg h', Memory.read_write_other _ _ hj]

/-- Reading a run succeeds with exactly the bytes read one by one. -/
theorem Memory.readBytes_eq_some_iff (m : Memory) (i n : Nat) (bs : List Byte) :
    Memory.readBytes m i n = some bs ↔ bs.length = n ∧ ∀ j, j < n → Memory.read m (i + j) = bs[j]? := by
  induction n generalizing i bs with
  | zero =>
    simp only [Memory.readBytes, Option.some.injEq]
    constructor
    · rintro rfl; simp
    · rintro ⟨h, -⟩; exact (List.length_eq_zero_iff.mp h).symm
  | succ n ih =>
    simp only [Memory.readBytes]
    constructor
    · intro h
      split at h
      · rename_i b rest hb hrest
        obtain rfl := Option.some.inj h
        obtain ⟨hl, hr⟩ := (ih (i + 1) rest).mp hrest
        refine ⟨by simp [hl], fun j hj => ?_⟩
        cases j with
        | zero => simpa using hb
        | succ j =>
          have := hr j (by omega)
          rw [show i + 1 + j = i + (j + 1) by omega] at this
          simpa using this
      · cases h
    · rintro ⟨hl, hr⟩
      cases bs with
      | nil => simp at hl
      | cons b rest =>
        have h0 : Memory.read m i = some b := by simpa using hr 0 (by omega)
        have h1 : Memory.readBytes m (i + 1) n = some rest := by
          refine (ih (i + 1) rest).mpr ⟨by simpa using hl, fun j hj => ?_⟩
          have := hr (j + 1) (by omega)
          rw [show i + 1 + j = i + (j + 1) by omega]
          simpa using this
        rw [h0, h1]

/-- A run of written bytes can be read. -/
theorem Memory.readBytes_isSome_iff (m : Memory) (i n : Nat) :
    (Memory.readBytes m i n).isSome = true ↔ ∀ j, j < n → (Memory.read m (i + j)).isSome = true := by
  induction n generalizing i with
  | zero => simp [Memory.readBytes]
  | succ n ih =>
    have key : (Memory.readBytes m i (n + 1)).isSome = true ↔
        (Memory.read m i).isSome = true ∧ (Memory.readBytes m (i + 1) n).isSome = true := by
      simp only [Memory.readBytes]
      cases Memory.read m i <;> cases Memory.readBytes m (i + 1) n <;> simp
    rw [key, ih]
    constructor
    · rintro ⟨h0, h1⟩ j hj
      cases j with
      | zero => exact h0
      | succ j =>
        have := h1 j (by omega)
        rwa [show i + 1 + j = i + (j + 1) by omega] at this
    · intro h
      refine ⟨h 0 (by omega), fun j hj => ?_⟩
      have := h (j + 1) (by omega)
      rwa [show i + 1 + j = i + (j + 1) by omega]

/-- A buffer written below an index can be read there. -/
theorem Memory.exists_readBytes {m : Memory} {n : Nat} (h : m.writtenBelow n) {i k : Nat} (hk : i + k ≤ n) :
    ∃ bs, Memory.readBytes m i k = some bs :=
  Option.isSome_iff_exists.mp ((Memory.readBytes_isSome_iff m i k).mpr fun j hj => h (i + j) (by omega))

/-- A buffer not written below an index cannot be read there. -/
theorem Memory.readBytes_eq_none_iff (m : Memory) (n : Nat) : Memory.readBytes m 0 n = none ↔ ¬ m.writtenBelow n := by
  have h := Memory.readBytes_isSome_iff m 0 n
  simp only [Nat.zero_add] at h
  rw [Memory.writtenBelow, ← h]
  cases Memory.readBytes m 0 n <;> simp

/-- A write keeps every written byte written. -/
theorem Memory.writtenBelow_write {m : Memory} {n i : Nat} (b : Byte) (h : m.writtenBelow n) :
    Memory.writtenBelow (Memory.write m i b) n := by
  intro j hj
  by_cases e : j = i
  · subst e; simp
  · rw [Memory.read_write_other _ _ e]; exact h j hj

/-- A run written at the end of the written part extends it. -/
theorem Memory.writtenBelow_writeBytes {m : Memory} {i n : Nat} {bs : List Byte} (h : m.writtenBelow i)
    (hn : n ≤ i + bs.length) : Memory.writtenBelow (Memory.writeBytes m i bs) n := by
  intro j hj
  rw [Memory.read_writeBytes]
  by_cases c : i ≤ j
  · rw [if_pos ⟨c, by omega⟩, List.getElem?_eq_getElem (by omega)]; rfl
  · rw [if_neg (by omega)]; exact h j (by omega)

/-- Rising above a bound is rising above any lower one. -/
theorem Memory.risingAbove_mono {m : Memory} {low low' : Nat} (h : low' ≤ low) (hm : Memory.risingAbove low m = true) :
    Memory.risingAbove low' m = true := by
  cases m with
  | nil => rfl
  | cons c m =>
    obtain ⟨k, v⟩ := c
    simp only [Memory.risingAbove, Bool.and_eq_true, decide_eq_true_eq] at hm ⊢
    exact ⟨by omega, hm.2⟩

/-- A write keeps the indices rising above a bound below the index written. -/
theorem Memory.risingAbove_write {m : Memory} {low i : Nat} (b : Byte) (h : low < i) (hm : Memory.risingAbove low m = true) :
    Memory.risingAbove low (Memory.write m i b) = true := by
  induction m generalizing low with
  | nil => simp [Memory.write, Memory.risingAbove, h]
  | cons c m ih =>
    obtain ⟨k, v⟩ := c
    simp only [Memory.risingAbove, Bool.and_eq_true, decide_eq_true_eq] at hm
    simp only [Memory.write]
    split
    · rename_i hik
      simp [Memory.risingAbove, h, hik, hm.2]
    · split
      · rename_i h1 h2
        subst h2
        simp [Memory.risingAbove, h, hm.2]
      · simp [Memory.risingAbove, hm.1, ih (by omega : k < i) hm.2]

/-- The canonical form in terms of one rising check. -/
theorem Memory.wf_cons (k : Nat) (v : Byte) (m : Memory) :
    Memory.wf ((k, v) :: m) = true ↔
      Memory.risingAbove k m = true ∧ k < Config.bufSize ∧ ∀ c ∈ m, c.1 < Config.bufSize := by
  simp [Memory.wf, List.all_eq_true]

/-- The indices after a write. -/
theorem Memory.mem_write {m : Memory} {i : Nat} {b : Byte} {c : Host.Cell} (h : c ∈ Memory.write m i b) :
    c = (i, b) ∨ c ∈ m := by
  induction m with
  | nil => simpa [Memory.write] using h
  | cons d m ih =>
    obtain ⟨k, v⟩ := d
    simp only [Memory.write] at h
    split at h
    · simpa using h
    · split at h
      · rcases List.mem_cons.mp h with h | h
        · exact .inl h
        · exact .inr (List.mem_cons_of_mem _ h)
      · rcases List.mem_cons.mp h with h | h
        · exact .inr (h ▸ List.mem_cons_self)
        · exact (ih h).imp id (List.mem_cons_of_mem _)

/-- A write keeps the canonical form (R50). -/
theorem Memory.wf_write {m : Memory} {i : Nat} (b : Byte) (hm : Memory.wf m = true) (hi : i < Config.bufSize) :
    Memory.wf (Memory.write m i b) = true := by
  cases m with
  | nil => simp [Memory.write, Memory.wf, Memory.risingAbove, hi]
  | cons c m =>
    obtain ⟨k, v⟩ := c
    obtain ⟨h1, h2, h3⟩ := (Memory.wf_cons k v m).mp hm
    simp only [Memory.write]
    split
    · rename_i hik
      refine (Memory.wf_cons i b _).mpr ⟨by simp [Memory.risingAbove, hik, h1], hi, ?_⟩
      simpa using ⟨h2, fun a x hx => h3 (a, x) hx⟩
    · split
      · rename_i h4 h5
        subst h5
        exact (Memory.wf_cons i b m).mpr ⟨h1, hi, h3⟩
      · refine (Memory.wf_cons k v _).mpr ⟨Memory.risingAbove_write b (by omega) h1, h2, fun c hc => ?_⟩
        rcases Memory.mem_write hc with rfl | hc
        · exact hi
        · exact h3 c hc

/-- A run of writes keeps the canonical form (R50). -/
theorem Memory.wf_writeBytes {m : Memory} {i : Nat} {bs : List Byte} (hm : Memory.wf m = true)
    (hi : i + bs.length ≤ Config.bufSize) : Memory.wf (Memory.writeBytes m i bs) = true := by
  induction bs generalizing m i with
  | nil => exact hm
  | cons b bs ih =>
    simp only [List.length_cons] at hi
    exact ih (Memory.wf_write b hm (by omega)) (by omega)

/-- The memory after reset, with nothing listed, has the canonical form. -/
theorem Memory.wf_nil : Memory.wf [] = true := rfl

end Sys2Proof.Machine
end

