-- ==== Sys2Proof/Laws/State.lean ====
section
/-! SUPPORT. What each named update of the state leaves in each field. -/

namespace Sys2Proof.Machine

@[simp] theorem State.withOut_cfg (s : State) (o : PortOut) : (s.withOut o).cfg = s.cfg := rfl
@[simp] theorem State.withOut_ra (s : State) (o : PortOut) : (s.withOut o).ra = s.ra := rfl
@[simp] theorem State.withOut_fc (s : State) (o : PortOut) : (s.withOut o).fc = s.fc := rfl
@[simp] theorem State.withOut_tx (s : State) (o : PortOut) : (s.withOut o).tx = s.tx := rfl
@[simp] theorem State.withOut_txq (s : State) (o : PortOut) : (s.withOut o).txq = s.txq := rfl
@[simp] theorem State.withOut_msgq (s : State) (o : PortOut) : (s.withOut o).msgq = s.msgq := rfl
@[simp] theorem State.withOut_errq (s : State) (o : PortOut) : (s.withOut o).errq = s.errq := rfl
@[simp] theorem State.withOut_cmdPort (s : State) (o : PortOut) : (s.withOut o).cmdPort = s.cmdPort := rfl
@[simp] theorem State.withOut_rxPort (s : State) (o : PortOut) : (s.withOut o).rxPort = s.rxPort := rfl
@[simp] theorem State.withOut_sched (s : State) (o : PortOut) : (s.withOut o).sched = s.sched := rfl
@[simp] theorem State.withOut_out (s : State) (o : PortOut) : (s.withOut o).out = o := rfl

@[simp] theorem State.withRa_cfg (s : State) (r : Reassembly) : (s.withRa r).cfg = s.cfg := rfl
@[simp] theorem State.withRa_ra (s : State) (r : Reassembly) : (s.withRa r).ra = r := rfl
@[simp] theorem State.withRa_fc (s : State) (r : Reassembly) : (s.withRa r).fc = s.fc := rfl
@[simp] theorem State.withRa_tx (s : State) (r : Reassembly) : (s.withRa r).tx = s.tx := rfl
@[simp] theorem State.withRa_txq (s : State) (r : Reassembly) : (s.withRa r).txq = s.txq := rfl
@[simp] theorem State.withRa_msgq (s : State) (r : Reassembly) : (s.withRa r).msgq = s.msgq := rfl
@[simp] theorem State.withRa_errq (s : State) (r : Reassembly) : (s.withRa r).errq = s.errq := rfl
@[simp] theorem State.withRa_cmdPort (s : State) (r : Reassembly) : (s.withRa r).cmdPort = s.cmdPort := rfl
@[simp] theorem State.withRa_rxPort (s : State) (r : Reassembly) : (s.withRa r).rxPort = s.rxPort := rfl
@[simp] theorem State.withRa_sched (s : State) (r : Reassembly) : (s.withRa r).sched = s.sched := rfl
@[simp] theorem State.withRa_out (s : State) (r : Reassembly) : (s.withRa r).out = s.out := rfl

@[simp] theorem State.withFc_cfg (s : State) (r : FlowControl) : (s.withFc r).cfg = s.cfg := rfl
@[simp] theorem State.withFc_ra (s : State) (r : FlowControl) : (s.withFc r).ra = s.ra := rfl
@[simp] theorem State.withFc_fc (s : State) (r : FlowControl) : (s.withFc r).fc = r := rfl
@[simp] theorem State.withFc_tx (s : State) (r : FlowControl) : (s.withFc r).tx = s.tx := rfl
@[simp] theorem State.withFc_txq (s : State) (r : FlowControl) : (s.withFc r).txq = s.txq := rfl
@[simp] theorem State.withFc_msgq (s : State) (r : FlowControl) : (s.withFc r).msgq = s.msgq := rfl
@[simp] theorem State.withFc_errq (s : State) (r : FlowControl) : (s.withFc r).errq = s.errq := rfl
@[simp] theorem State.withFc_cmdPort (s : State) (r : FlowControl) : (s.withFc r).cmdPort = s.cmdPort := rfl
@[simp] theorem State.withFc_rxPort (s : State) (r : FlowControl) : (s.withFc r).rxPort = s.rxPort := rfl
@[simp] theorem State.withFc_sched (s : State) (r : FlowControl) : (s.withFc r).sched = s.sched := rfl
@[simp] theorem State.withFc_out (s : State) (r : FlowControl) : (s.withFc r).out = s.out := rfl

@[simp] theorem State.withTx_cfg (s : State) (r : TxEngine) : (s.withTx r).cfg = s.cfg := rfl
@[simp] theorem State.withTx_ra (s : State) (r : TxEngine) : (s.withTx r).ra = s.ra := rfl
@[simp] theorem State.withTx_fc (s : State) (r : TxEngine) : (s.withTx r).fc = s.fc := rfl
@[simp] theorem State.withTx_tx (s : State) (r : TxEngine) : (s.withTx r).tx = r := rfl
@[simp] theorem State.withTx_txq (s : State) (r : TxEngine) : (s.withTx r).txq = s.txq := rfl
@[simp] theorem State.withTx_msgq (s : State) (r : TxEngine) : (s.withTx r).msgq = s.msgq := rfl
@[simp] theorem State.withTx_errq (s : State) (r : TxEngine) : (s.withTx r).errq = s.errq := rfl
@[simp] theorem State.withTx_cmdPort (s : State) (r : TxEngine) : (s.withTx r).cmdPort = s.cmdPort := rfl
@[simp] theorem State.withTx_rxPort (s : State) (r : TxEngine) : (s.withTx r).rxPort = s.rxPort := rfl
@[simp] theorem State.withTx_sched (s : State) (r : TxEngine) : (s.withTx r).sched = s.sched := rfl
@[simp] theorem State.withTx_out (s : State) (r : TxEngine) : (s.withTx r).out = s.out := rfl

@[simp] theorem State.pushTxq_cfg (s : State) (f : FrameRecord) : (s.pushTxq f).cfg = s.cfg := rfl
@[simp] theorem State.pushTxq_ra (s : State) (f : FrameRecord) : (s.pushTxq f).ra = s.ra := rfl
@[simp] theorem State.pushTxq_fc (s : State) (f : FrameRecord) : (s.pushTxq f).fc = s.fc := rfl
@[simp] theorem State.pushTxq_tx (s : State) (f : FrameRecord) : (s.pushTxq f).tx = s.tx := rfl
@[simp] theorem State.pushTxq_txq (s : State) (f : FrameRecord) : (s.pushTxq f).txq = s.txq ++ [f] := rfl
@[simp] theorem State.pushTxq_msgq (s : State) (f : FrameRecord) : (s.pushTxq f).msgq = s.msgq := rfl
@[simp] theorem State.pushTxq_errq (s : State) (f : FrameRecord) : (s.pushTxq f).errq = s.errq := rfl
@[simp] theorem State.pushTxq_cmdPort (s : State) (f : FrameRecord) : (s.pushTxq f).cmdPort = s.cmdPort := rfl
@[simp] theorem State.pushTxq_rxPort (s : State) (f : FrameRecord) : (s.pushTxq f).rxPort = s.rxPort := rfl
@[simp] theorem State.pushTxq_sched (s : State) (f : FrameRecord) : (s.pushTxq f).sched = s.sched := rfl
@[simp] theorem State.pushTxq_out (s : State) (f : FrameRecord) : (s.pushTxq f).out = s.out := rfl

@[simp] theorem State.pushMsgq_cfg (s : State) (m : Message) : (s.pushMsgq m).cfg = s.cfg := rfl
@[simp] theorem State.pushMsgq_ra (s : State) (m : Message) : (s.pushMsgq m).ra = s.ra := rfl
@[simp] theorem State.pushMsgq_fc (s : State) (m : Message) : (s.pushMsgq m).fc = s.fc := rfl
@[simp] theorem State.pushMsgq_tx (s : State) (m : Message) : (s.pushMsgq m).tx = s.tx := rfl
@[simp] theorem State.pushMsgq_txq (s : State) (m : Message) : (s.pushMsgq m).txq = s.txq := rfl
@[simp] theorem State.pushMsgq_msgq (s : State) (m : Message) : (s.pushMsgq m).msgq = s.msgq ++ [m] := rfl
@[simp] theorem State.pushMsgq_errq (s : State) (m : Message) : (s.pushMsgq m).errq = s.errq := rfl
@[simp] theorem State.pushMsgq_cmdPort (s : State) (m : Message) : (s.pushMsgq m).cmdPort = s.cmdPort := rfl
@[simp] theorem State.pushMsgq_rxPort (s : State) (m : Message) : (s.pushMsgq m).rxPort = s.rxPort := rfl
@[simp] theorem State.pushMsgq_sched (s : State) (m : Message) : (s.pushMsgq m).sched = s.sched := rfl
@[simp] theorem State.pushMsgq_out (s : State) (m : Message) : (s.pushMsgq m).out = s.out := rfl

@[simp] theorem State.pushErrq_cfg (s : State) (e : ErrRecord) : (s.pushErrq e).cfg = s.cfg := rfl
@[simp] theorem State.pushErrq_ra (s : State) (e : ErrRecord) : (s.pushErrq e).ra = s.ra := rfl
@[simp] theorem State.pushErrq_fc (s : State) (e : ErrRecord) : (s.pushErrq e).fc = s.fc := rfl
@[simp] theorem State.pushErrq_tx (s : State) (e : ErrRecord) : (s.pushErrq e).tx = s.tx := rfl
@[simp] theorem State.pushErrq_txq (s : State) (e : ErrRecord) : (s.pushErrq e).txq = s.txq := rfl
@[simp] theorem State.pushErrq_msgq (s : State) (e : ErrRecord) : (s.pushErrq e).msgq = s.msgq := rfl
@[simp] theorem State.pushErrq_errq (s : State) (e : ErrRecord) : (s.pushErrq e).errq = s.errq ++ [e] := rfl
@[simp] theorem State.pushErrq_cmdPort (s : State) (e : ErrRecord) : (s.pushErrq e).cmdPort = s.cmdPort := rfl
@[simp] theorem State.pushErrq_rxPort (s : State) (e : ErrRecord) : (s.pushErrq e).rxPort = s.rxPort := rfl
@[simp] theorem State.pushErrq_sched (s : State) (e : ErrRecord) : (s.pushErrq e).sched = s.sched := rfl
@[simp] theorem State.pushErrq_out (s : State) (e : ErrRecord) : (s.pushErrq e).out = s.out := rfl

/-- The last output written is the one that stays. -/
@[simp] theorem State.withOut_withOut (s : State) (o p : PortOut) : (s.withOut o).withOut p = s.withOut p := rfl

@[simp] theorem State.txqRoom_withOut (s : State) (o : PortOut) : (s.withOut o).txqRoom = s.txqRoom := rfl
@[simp] theorem State.msgqRoom_withOut (s : State) (o : PortOut) : (s.withOut o).msgqRoom = s.msgqRoom := rfl
@[simp] theorem State.errqRoom_withOut (s : State) (o : PortOut) : (s.withOut o).errqRoom = s.errqRoom := rfl

end Sys2Proof.Machine
end

