-- ==== Sys2Proof/Laws/Effect.lean ====
section
/-! SUPPORT. Everything one instruction can do, said once: if exec answers a next state, that state is one of the listed successors, with the conditions under which it is reached. -/

namespace Sys2Proof.Machine

/-- The successors of a state under an instruction. -/
inductive Effect (s : State) : Instr → State → Prop where
  /-- No step (R58, R170, R171, R191). -/
  | noStep {i} : Effect s i (s.withOut .noStep)
  /-- A command that writes nothing but its answer; an error has no results (R211). -/
  | answer {i} (hi : i.isCommand = true) (r : Response) (hr : r.s ≠ .success → r = ⟨r.s, 0, 0, 0, 0⟩) :
      Effect s i (s.withOut (.response r))
  /-- WRBUF (R170). -/
  | wrbuf {a b : Word} (hs : s.tx.state = .idle) (ha : a.toNat ≤ 4094) (hb : b.toNat ≤ 255) :
      Effect s (.wrbuf a b)
        ((s.withTx { s.tx with buf := Memory.write s.tx.buf a.toNat (addrOf b) }).withOut (.response ⟨.success, 0, 0, 0, 0⟩))
  /-- SEND with an operand out of range (R171). -/
  | sendReject {a b c d : Word} (hs : s.tx.state = .idle) :
      Effect s (.send a b c d) ((s.withTx s.tx.rejectSend).withOut (.response ⟨.invalidField, 0, 0, 0, 0⟩))
  /-- SEND, single-frame path (R172). -/
  | sendSingle {a b c d : Word} (hs : s.tx.state = .idle) (hq : s.txqRoom = true) (id : Ident) (payload : List Byte)
      (hl : payload.length ≤ 7) :
      Effect s (.send a b c d)
        (((s.withTx ((s.tx.beginSend id).finishSend .success)).pushTxq
          (outFrame id (BitVec.ofNat 8 payload.length :: payload))).withOut (.response ⟨.success, 0, 0, 0, 0⟩))
  /-- SEND, segmented path (R173). -/
  | sendFirst {a b c d : Word} (hs : s.tx.state = .idle) (hq : s.txqRoom = true) (id : Ident) (len : BitVec 12)
      (payload : List Byte) (hl : 8 ≤ len.toNat) (hp : Memory.readBytes s.tx.buf 0 len.toNat = some payload) :
      Effect s (.send a b c d)
        (((s.withTx (s.tx.startSegments id len)).pushTxq
          (outFrame id (pciByte 0x1 (len.extractLsb' 8 4) :: len.extractLsb' 0 8 :: payload.take Config.ffData))).withOut
          (.response ⟨.success, 0, 0, 0, 0⟩))
  /-- An error report of an arriving frame (R141). -/
  | report {i} (hi : i.isArrival = true) (hq : s.errqRoom = true) (e : ErrRecord) (he : e.Ok) :
      Effect s i ((s.pushErrq e).withOut .nothing)
  /-- A message of a single arriving frame (R142, R149). -/
  | deliver {i} (hi : i.isArrival = true) (hq : s.msgqRoom = true) (m : Message) (hm : m.Ok) :
      Effect s i ((s.pushMsgq m).withOut .nothing)
  /-- A First frame (R143, R144). -/
  | first {i} (hi : i.isArrival = true) (hq : s.txqRoom = true) (prio : BitVec 3) (dst src : BitVec 8) (ffDl : BitVec 12)
      (payload : List Byte) :
      Effect s i
        (((s.withRa
            { active := true, size := ffDl, count := BitVec.ofNat 12 (min payload.length ffDl.toNat), lastIdx := 0, prio := prio,
              dst := dst, src := src, buf := Memory.writeBytes s.ra.buf 0 (payload.take (min payload.length ffDl.toNat)) }).pushTxq
          (flowReply s.cfg prio dst src)).withOut .nothing)
  /-- An accepted Consecutive frame that does not complete the message (R146). -/
  | append {i} (hi : i.isArrival = true) (sn : BitVec 4) (payload : List Byte) (ha : s.ra.accepts sn = true)
      (hc : (s.ra.append sn payload).count ≠ s.ra.size) :
      Effect s i ((s.withRa (s.ra.append sn payload)).withOut .nothing)
  /-- An accepted Consecutive frame that completes the message (R146). -/
  | complete {i} (hi : i.isArrival = true) (sn : BitVec 4) (payload bytes : List Byte) (ha : s.ra.accepts sn = true)
      (hc : (s.ra.append sn payload).count = s.ra.size) (hq : s.msgqRoom = true)
      (hb : Memory.readBytes (s.ra.append sn payload).buf 0 s.ra.size.toNat = some bytes) :
      Effect s i
        (((s.withRa { s.ra.append sn payload with active := false }).pushMsgq
          ((s.ra.append sn payload).message bytes)).withOut .nothing)
  /-- An arriving frame that changes nothing (R147, R148). -/
  | drop {i} (hi : i.isArrival = true) : Effect s i (s.withOut .nothing)
  /-- A FlowControl frame that is stored (R148). -/
  | storeFlow {i} (hi : i.isArrival = true) (ha : s.acceptsFlow = true) (fs : BitVec 4) (bs st : Byte) :
      Effect s i ((s.withFc ⟨true, fs, bs, st⟩).withOut .nothing)
  /-- Continue (R181). -/
  | takeContinue {i} (hi : i.isTransition = true) (hf : s.flowReady = true) :
      Effect s i
        (((s.withFc s.fc.consume).withTx
          { s.tx with state := .sendCf, bs := s.fc.bs, st := s.fc.st, blkCnt := 0 }).withOut .nothing)
  /-- Wait (R182). -/
  | takeWait {i} (hi : i.isTransition = true) (hf : s.flowReady = true) :
      Effect s i
        (((s.withFc s.fc.consume).withTx { s.tx with state := .waitPause, timer := s.cfg.waitInterval }).withOut .nothing)
  /-- Abort (R187). -/
  | takeAbort {i} (hi : i.isTransition = true) (hf : s.flowReady = true) :
      Effect s i (((s.withFc s.fc.consume).withTx (s.tx.finishSend .aborted)).withOut .nothing)
  /-- Flow-control timeout (R188). -/
  | timeout (hs : s.tx.state = .waitFc) (hv : s.fc.valid = false) (ht : s.tx.timer = 0) :
      Effect s .txstep ((s.withTx (s.tx.finishSend .flowControlTimeout)).withOut .nothing)
  /-- The next Consecutive frame (R184). -/
  | consecutive (hs : s.tx.state = .sendCf) (hq : s.txqRoom = true) (payload : List Byte)
      (hp : Memory.readBytes s.tx.buf s.tx.pos.toNat (min Config.cfMax (s.tx.len.toNat - s.tx.pos.toNat)) = some payload) :
      Effect s .txstep
        (((s.withTx (s.tx.afterConsecutive (min Config.cfMax (s.tx.len.toNat - s.tx.pos.toNat)))).pushTxq
          (outFrame s.tx.id (pciByte 0x2 s.tx.idx :: payload))).withOut .nothing)
  /-- The end of a separation delay (R185). -/
  | endDelay (hs : s.tx.state = .sepDelay) (ht : s.tx.timer = 0) :
      Effect s .txstep ((s.withTx { s.tx with state := .sendCf }).withOut .nothing)
  /-- The end of a Wait pause under REWAIT (R186). -/
  | endPauseRewait (hs : s.tx.state = .waitPause) (ht : s.tx.timer = 0) (hp : s.cfg.waitPolicy = .rewait) :
      Effect s .txstep ((s.withTx s.tx.enterWaitFc).withOut .nothing)
  /-- The end of a Wait pause under RESUME (R186). -/
  | endPauseResume (hs : s.tx.state = .waitPause) (ht : s.tx.timer = 0) (hp : s.cfg.waitPolicy = .resume) :
      Effect s .txstep ((s.withTx { s.tx with state := .sendCf, blkCnt := 0 }).withOut .nothing)
  /-- A tick that counts (R190). -/
  | tickDown (hs : s.tx.state.timed = true) (ht : s.tx.timer ≠ 0) :
      Effect s .tick ((s.withTx { s.tx with timer := s.tx.timer - 1 }).withOut .nothing)
  /-- A tick without effect (R190). -/
  | tickIdle (hs : s.tx.state.timed = true → s.tx.timer = 0) : Effect s .tick (s.withOut .nothing)
  /-- POPTX (R58). -/
  | poptx (f : FrameRecord) (rest : List FrameRecord) (h : s.txq = f :: rest) :
      Effect s .poptx ({ s with txq := rest }.withOut (.frame f))
  /-- POPMSG (R58). -/
  | popmsg (m : Message) (rest : List Message) (h : s.msgq = m :: rest) :
      Effect s .popmsg ({ s with msgq := rest }.withOut (.message m))
  /-- POPERR (R58). -/
  | poperr (e : ErrRecord) (rest : List ErrRecord) (h : s.errq = e :: rest) :
      Effect s .poperr ({ s with errq := rest }.withOut (.report e))
  /-- RESET (R240). -/
  | reset :
      Effect s .reset
        { s with ra := .reset, fc := .reset, tx := .reset, txq := [], msgq := [], errq := [], out := .nothing }

theorem effect_of_noStep {s t : State} {i : Instr} (h : noStep s = .next t) : Effect s i t := by
  cases h; exact .noStep

theorem effect_of_raise {s t : State} {i : Instr} {e : ErrKind} (hi : i.isCommand = true) (h : raiseCommand s e = .next t) :
    Effect s i t := by
  cases h; exact .answer hi _ fun _ => rfl

theorem effect_of_respond {s t : State} {i : Instr} {y0 y1 y2 y3 : Word} (hi : i.isCommand = true)
    (h : respond s y0 y1 y2 y3 = .next t) : Effect s i t := by
  cases h; exact .answer hi _ fun h => absurd rfl h

theorem effect_of_report {s t : State} {i : Instr} {e : ErrKind} {nib : BitVec 4} {r : FrameRecord} (hi : i.isArrival = true)
    (he : e = .invalidField ∨ e = .malformedIdentifier ∨ e = .truncatedFrame ∨ e = .unknownFrameType)
    (h : reportFrameError s e nib r = .next t) : Effect s i t := by
  simp only [reportFrameError] at h
  split at h
  · rename_i hq
    cases h; exact .report hi hq _ he
  · exact effect_of_noStep h

theorem effect_of_deliver {s t : State} {i : Instr} {m : Message} (hi : i.isArrival = true) (hm : m.Ok)
    (h : deliver s m = .next t) : Effect s i t := by
  simp only [deliver] at h
  split at h
  · rename_i hq
    cases h; exact .deliver hi hq m hm
  · exact effect_of_noStep h

theorem effect_of_armFirst {s t : State} {i : Instr} {prio : BitVec 3} {dst src : BitVec 8} {ffDl : BitVec 12}
    {payload : List Byte} (hi : i.isArrival = true) (h : armFirst s prio dst src ffDl payload = .next t) : Effect s i t := by
  simp only [armFirst] at h
  split at h
  · rename_i hq
    cases h; exact .first hi hq prio dst src ffDl payload
  · exact effect_of_noStep h

/-- Appending keeps the declared size. -/
@[simp] theorem Reassembly.append_size (ra : Reassembly) (sn : BitVec 4) (payload : List Byte) :
    (ra.append sn payload).size = ra.size := rfl

theorem effect_of_armConsecutive {s t : State} {i : Instr} {sn : BitVec 4} {payload : List Byte} (hi : i.isArrival = true)
    (h : armConsecutive s sn payload = .next t) : Effect s i t := by
  unfold armConsecutive at h
  split at h
  · rename_i ha
    split at h
    · rename_i hc
      unfold completeTransfer at h
      split at h
      · rename_i hq
        split at h
        · rename_i bytes hb
          cases h
          exact .complete hi sn payload bytes ha hc hq hb
        · cases h
      · exact effect_of_noStep h
    · rename_i hc
      cases h; exact .append hi sn payload ha hc
  · cases h; exact .drop hi

theorem effect_of_armFlow {s t : State} {i : Instr} {fs : BitVec 4} {bs st : Byte} (hi : i.isArrival = true)
    (h : armFlow s fs bs st = .next t) : Effect s i t := by
  simp only [armFlow] at h
  split at h
  · rename_i ha
    cases h; exact .storeFlow hi ha fs bs st
  · cases h; exact .drop hi

/-- What a classification must meet for the receive arms to have one of the listed effects. -/
def goodVariant : Except ErrKind Variant → Prop
  | .error e => e = .invalidField ∨ e = .malformedIdentifier ∨ e = .truncatedFrame ∨ e = .unknownFrameType
  | .ok (.pubSingle _ _ _ payload) => payload.length ≤ 8
  | .ok (.svcSingle _ _ _ payload) => payload.length < 16
  | .ok _ => True

theorem effect_of_receive {s t : State} {i : Instr} {r : FrameRecord} {nib : BitVec 4} {v : Except ErrKind Variant}
    (hi : i.isArrival = true) (hv : goodVariant v) (h : receive s r nib v = .next t) : Effect s i t := by
  match v, hv, h with
  | .error e, hv, h => exact effect_of_report hi hv h
  | .ok (.pubSingle _ _ _ payload), hv, h =>
    have hv : payload.length ≤ 8 := hv
    exact effect_of_deliver hi ⟨by simp only [BitVec.toNat_ofNat]; omega, fun _ => hv⟩ h
  | .ok (.svcSingle _ _ _ payload), hv, h =>
    have hv : payload.length < 16 := hv
    exact effect_of_deliver hi ⟨by simp only [BitVec.toNat_ofNat]; omega, fun h => by cases h⟩ h
  | .ok (.svcFirst _ _ _ _ _), _, h => exact effect_of_armFirst hi h
  | .ok (.svcConsecutive _ _ _ _ _), _, h => exact effect_of_armConsecutive hi h
  | .ok (.svcFlowControl _ _ _ _ _ _), _, h => exact effect_of_armFlow hi h

theorem goodVariant_classifyService (prio : BitVec 3) (dst src : BitVec 8) (len : Nat) (data : List Byte) :
    goodVariant (classifyService prio dst src len data) := by
  cases h : classifyService prio dst src len data with
  | error e => exact (classifyService_error h).elim (fun h => .inr (.inr (.inl h))) fun h => .inr (.inr (.inr h))
  | ok v =>
    rcases classifyService_ok h with ⟨_, rfl, hl⟩ | ⟨_, _, rfl⟩ | ⟨_, _, rfl⟩ | ⟨_, _, _, rfl⟩
    · exact hl
    all_goals trivial

theorem goodVariant_classifyFrame (p : Config.Params) (canId : Word) (len : Nat) (data : List Byte) :
    goodVariant (classifyFrame p canId len data) := by
  cases h : classifyFrame p canId len data with
  | error e => exact classifyFrame_error h
  | ok v =>
    cases v with
    | pubSingle prio doid src payload => exact classifyFrame_pub h
    | svcSingle prio dst src payload =>
      obtain ⟨-, ⟨_, _, _, -, h⟩ | ⟨prio', dst', src', -, h⟩⟩ := classifyFrame_ok h
      · cases h
      · have hg := goodVariant_classifyService prio' dst' src' len data
        rw [h] at hg
        exact hg
    | svcFirst => trivial
    | svcConsecutive => trivial
    | svcFlowControl => trivial

theorem goodVariant_classifySingle (prio : BitVec 3) (dst src : BitVec 8) (len : Nat) (data : List Byte) :
    goodVariant (classifySingle prio dst src len data) := by
  cases h : classifySingle prio dst src len data with
  | error e =>
    simp only [classifySingle] at h
    split at h
    · cases h; exact .inr (.inr (.inl rfl))
    · cases h
  | ok v =>
    have h' := h
    simp only [classifySingle] at h
    split at h
    · cases h
    · cases h; exact classifySingle_payload h'

theorem goodVariant_classifyFirst (prio : BitVec 3) (dst src : BitVec 8) (len : Nat) (data : List Byte) :
    goodVariant (classifyFirst prio dst src len data) := by
  simp only [classifyFirst]
  split
  · exact .inr (.inr (.inl rfl))
  · trivial

theorem goodVariant_classifyFlow (prio : BitVec 3) (dst src : BitVec 8) (len : Nat) (data : List Byte) :
    goodVariant (classifyFlow prio dst src len data) := by
  simp only [classifyFlow]
  split
  · exact .inr (.inr (.inl rfl))
  · trivial

theorem effect_of_receiveService {s t : State} {i : Instr} {h : ServiceHead} {data : List Byte} {v : Except ErrKind Variant}
    (hi : i.isArrival = true) (hv : goodVariant v) (he : receiveService s h data v = .next t) : Effect s i t := by
  simp only [receiveService] at he
  split at he
  · exact effect_of_report hi (.inl rfl) he
  · split at he
    · exact effect_of_report hi (.inr (.inr (.inl rfl))) he
    · exact effect_of_receive hi hv he

theorem effect_of_classify {a b c d : Word} {s t : State} (h : execClassify a b c d s = .next t) :
    Effect s (.classify a b c d) t := by
  simp only [execClassify] at h
  split at h
  · exact effect_of_raise rfl h
  · rename_i v _
    cases v <;> exact effect_of_respond rfl h

theorem effect_of_wrbuf {a b : Word} {s t : State} (h : execWrbuf a b s = .next t) : Effect s (.wrbuf a b) t := by
  simp only [execWrbuf] at h
  split at h
  · exact effect_of_noStep h
  · rename_i hs
    split at h
    · rename_i hr
      simp only [indexInRange, byteInRange, Bool.and_eq_true, decide_eq_true_eq] at hr
      cases h
      exact .wrbuf (not_not.mp hs) hr.1 hr.2
    · exact effect_of_raise rfl h

theorem effect_of_send {a b c d : Word} {s t : State} (h : execSend a b c d s = .next t) : Effect s (.send a b c d) t := by
  simp only [execSend] at h
  split at h
  · exact effect_of_noStep h
  · rename_i hs
    have hs := not_not.mp hs
    split at h
    · cases h; exact .sendReject hs
    · rename_i hr
      split at h
      · exact effect_of_noStep h
      · rename_i hq
        have hq : s.txqRoom = true := by simpa using hq
        have hd : d.toNat ≤ 4095 := by
          simp only [sendInRange, lengthInRange, Bool.not_eq_false, Bool.and_eq_true, decide_eq_true_eq] at hr
          exact hr.2
        split at h
        · cases h
        · rename_i payload hp
          have hl := ((Memory.readBytes_eq_some_iff _ _ _ _).mp hp).1
          split at h
          · rename_i h7
            cases h
            exact .sendSingle hs hq _ payload (by simp only [Config.sfMax] at h7; omega)
          · rename_i h7
            have e : (d.extractLsb' 0 12).toNat = d.toNat := by
              rw [toNat_slice]; omega
            cases h
            refine .sendFirst hs hq _ _ payload ?_ ?_
            · rw [e]; simp only [Config.sfMax] at h7; omega
            · rw [e]; exact hp

theorem effect_of_takeContinue {s t : State} {i : Instr} (hi : i.isTransition = true) (hf : s.flowReady = true)
    (h : takeContinue s = .next t) : Effect s i t := by
  cases h; exact .takeContinue hi hf

theorem effect_of_takeWait {s t : State} {i : Instr} (hi : i.isTransition = true) (hf : s.flowReady = true)
    (h : takeWait s = .next t) : Effect s i t := by
  cases h; exact .takeWait hi hf

theorem effect_of_takeAbort {s t : State} {i : Instr} (hi : i.isTransition = true) (hf : s.flowReady = true)
    (h : takeAbort s = .next t) : Effect s i t := by
  cases h; exact .takeAbort hi hf

theorem effect_of_txstep {s t : State} (h : execTxstep s = .next t) : Effect s .txstep t := by
  simp only [execTxstep] at h
  split at h
  · exact effect_of_noStep h
  · rename_i hs
    split at h
    · rename_i hv
      have hf : s.flowReady = true := by simp [State.flowReady, hs, hv]
      simp only [consumeFlow] at h
      split at h
      · exact effect_of_takeContinue rfl hf h
      · exact effect_of_takeWait rfl hf h
      · exact effect_of_takeAbort rfl hf h
    · rename_i hv
      split at h
      · rename_i ht
        cases h; exact .timeout hs (by simpa using hv) ht
      · exact effect_of_noStep h
  · rename_i hs
    simp only [sendConsecutive] at h
    split at h
    · exact effect_of_noStep h
    · rename_i hq
      split at h
      · cases h
      · rename_i payload hp
        cases h; exact .consecutive hs (by simpa using hq) payload hp
  · rename_i hs
    split at h
    · rename_i ht
      cases h; exact .endDelay hs ht
    · exact effect_of_noStep h
  · rename_i hs
    split at h
    · rename_i ht
      simp only [endPause] at h
      split at h
      · rename_i hp
        cases h; exact .endPauseRewait hs ht hp
      · rename_i hp
        cases h; exact .endPauseResume hs ht hp
    · exact effect_of_noStep h

/-- Everything exec can do (the inversion every whole-machine law starts from). -/
theorem exec_effect {i : Instr} {s t : State} (h : exec i s = .next t) : Effect s i t := by
  cases i with
  | encpub a b c =>
    simp only [exec, execEncpub] at h
    split at h
    · exact effect_of_respond rfl h
    · exact effect_of_raise rfl h
  | decpub a =>
    simp only [exec, execDecpub] at h
    split at h
    · exact effect_of_raise rfl h
    · split at h
      · exact effect_of_raise rfl h
      · exact effect_of_respond rfl h
  | encsvc a b c =>
    simp only [exec, execEncsvc] at h
    split at h
    · exact effect_of_respond rfl h
    · exact effect_of_raise rfl h
  | decsvc a =>
    simp only [exec, execDecsvc] at h
    split at h
    · exact effect_of_raise rfl h
    · split at h
      · exact effect_of_raise rfl h
      · split at h
        · exact effect_of_raise rfl h
        · exact effect_of_respond rfl h
  | classify a b c d => exact effect_of_classify h
  | wrbuf a b => exact effect_of_wrbuf h
  | send a b c d => exact effect_of_send h
  | status => exact effect_of_respond rfl h
  | reservedOp0 => exact effect_of_raise rfl h
  | reservedOp9 => exact effect_of_raise rfl h
  | reservedOpA => exact effect_of_raise rfl h
  | reservedOpB => exact effect_of_raise rfl h
  | reservedOpC => exact effect_of_raise rfl h
  | reservedOpD => exact effect_of_raise rfl h
  | reservedOpE => exact effect_of_raise rfl h
  | reservedOpF => exact effect_of_raise rfl h
  | reservedCwHigh cw => exact effect_of_raise rfl h
  | idPub prio doid src len data =>
    simp only [exec, execIdPub] at h
    split at h
    · exact effect_of_report rfl (.inl rfl) h
    · rename_i hl
      refine effect_of_receive rfl ?_ h
      show (slice data 0 len.toNat).length ≤ 8
      simp only [Config.maxDlc] at hl
      simp only [slice_length]
      omega
  | idSvc hd data => exact effect_of_receiveService rfl (goodVariant_classifyService _ _ _ _ _) h
  | idReservedDisc prio disc low len data =>
    simp only [exec, execIdReservedDisc] at h
    split at h
    · exact effect_of_report rfl (.inl rfl) h
    · exact effect_of_report rfl (.inr (.inl rfl)) h
  | pciSf hd dl rest => exact effect_of_receiveService rfl (goodVariant_classifySingle _ _ _ _ _) h
  | pciFf hd dl rest => exact effect_of_receiveService rfl (goodVariant_classifyFirst _ _ _ _ _) h
  | pciCf hd sn rest =>
    refine effect_of_receiveService rfl ?_ h
    trivial
  | pciFc hd fs bs st rest => exact effect_of_receiveService rfl (goodVariant_classifyFlow _ _ _ _ _) h
  | pciReserved hd nib low rest =>
    refine effect_of_receiveService rfl ?_ h
    exact .inr (.inr (.inr rfl))
  | fcContinue =>
    simp only [exec, execFcContinue] at h
    split at h
    · rename_i hf
      simp only [Bool.and_eq_true] at hf
      exact effect_of_takeContinue rfl hf.1 h
    · exact effect_of_noStep h
  | fcWait =>
    simp only [exec, execFcWait] at h
    split at h
    · rename_i hf
      simp only [Bool.and_eq_true] at hf
      exact effect_of_takeWait rfl hf.1 h
    · exact effect_of_noStep h
  | fcAbort =>
    simp only [exec, execFcAbort] at h
    split at h
    · rename_i hf
      simp only [Bool.and_eq_true] at hf
      exact effect_of_takeAbort rfl hf.1 h
    · exact effect_of_noStep h
  | fcReserved fs =>
    simp only [exec, execFcReserved] at h
    split at h
    · rename_i hf
      simp only [Bool.and_eq_true] at hf
      exact effect_of_takeAbort rfl hf.1.1 h
    · exact effect_of_noStep h
  | rxframe r => exact effect_of_receive rfl (goodVariant_classifyFrame _ _ _ _) h
  | tick =>
    simp only [exec, execTick] at h
    split at h
    · rename_i ht
      simp only [Bool.and_eq_true, decide_eq_true_eq] at ht
      cases h; exact .tickDown ht.1 ht.2
    · rename_i ht
      simp only [Bool.and_eq_true, decide_eq_true_eq] at ht
      cases h; exact .tickIdle fun hs => by_contra fun hz => ht ⟨hs, hz⟩
  | txstep => exact effect_of_txstep h
  | poptx =>
    simp only [exec, execPoptx] at h
    split at h
    · exact effect_of_noStep h
    · rename_i f rest hq
      cases h; exact .poptx f rest hq
  | popmsg =>
    simp only [exec, execPopmsg] at h
    split at h
    · exact effect_of_noStep h
    · rename_i m rest hq
      cases h; exact .popmsg m rest hq
  | poperr =>
    simp only [exec, execPoperr] at h
    split at h
    · exact effect_of_noStep h
    · rename_i e rest hq
      cases h; exact .poperr e rest hq
  | reset => cases h; exact .reset

end Sys2Proof.Machine
end

