-- ==== Sys2Proof/Laws/Invariant.lean ====
section
/-! SUPPORT. How the shared operations keep each unit as its rules say between steps (10_state.md R25, R27, R32; 43_segmentation.md R194, R195). -/

namespace Sys2Proof.Machine

/-- A queue with room admits one more entry (R58). -/
theorem depthAdmits_push {d : Config.Depth} {n : Nat} (h : hasRoom d n = true) : depthAdmits d (n + 1) := by
  cases d with
  | unbounded => trivial
  | bounded k => cases n <;> simp_all [hasRoom, depthAdmits]

/-- A depth admits every smaller number of entries. -/
theorem depthAdmits_mono {d : Config.Depth} {n m : Nat} (h : depthAdmits d n) (hm : m ≤ n) : depthAdmits d m := by
  cases d with
  | unbounded => trivial
  | bounded k => simp_all [depthAdmits]; omega

/-- Every frame built to be transmitted is a legal record (R52). -/
theorem outFrame_ok (id : Ident) (bytes : List Byte) (h : bytes.length ≤ 8) : OutboundFrame (outFrame id bytes) := by
  have e : bytes.length % 256 = bytes.length := by omega
  refine ⟨extCanId_eff _, extCanId_flags _, ?_, ?_, ?_⟩
  · simp [outFrame, e, h]
  · simp [outFrame, Config.maxDlc]; omega
  · intro i hi
    simp [outFrame, e] at hi
    simp only [byteAt, outFrame, List.getD_eq_getElem?_getD]
    rw [List.getElem?_append_right hi]
    simp [List.getElem?_replicate]
    split <;> rfl

/-- An accepted Consecutive frame keeps the reassembly context as R25 and R27 say. -/
theorem Reassembly.append_ok {ra : Reassembly} (sn : BitVec 4) (payload : List Byte) (h : ra.Ok) :
    (ra.append sn payload).Ok := by
  have h1 := ra.size.isLt
  have h2 := h.count
  have e : (ra.append sn payload).count.toNat = ra.count.toNat + min payload.length (ra.size.toNat - ra.count.toNat) := by
    simp only [Reassembly.append, BitVec.toNat_ofNat]; omega
  refine ⟨?_, ?_, ?_⟩
  · apply Memory.wf_writeBytes h.buf
    simp only [List.length_take, Config.bufSize]
    omega
  · rw [e]; show _ ≤ ra.size.toNat; omega
  · rw [e]
    apply Memory.writtenBelow_writeBytes h.written
    simp only [List.length_take]
    omega

/-- A First frame leaves the reassembly context as R25 and R27 say. -/
theorem Reassembly.first_ok {buf : Memory} (hb : Memory.wf buf = true) (prio : BitVec 3) (dst src : BitVec 8) (ffDl : BitVec 12)
    (payload : List Byte) :
    Reassembly.Ok
      { active := true, size := ffDl, count := BitVec.ofNat 12 (min payload.length ffDl.toNat), lastIdx := 0, prio := prio,
        dst := dst, src := src, buf := Memory.writeBytes buf 0 (payload.take (min payload.length ffDl.toNat)) } := by
  have h1 := ffDl.isLt
  refine ⟨?_, ?_, ?_⟩
  · apply Memory.wf_writeBytes hb; simp [Config.bufSize]; omega
  · simp only [BitVec.toNat_ofNat]; omega
  · intro j hj
    simp only [BitVec.toNat_ofNat] at hj
    refine Memory.writtenBelow_writeBytes (i := 0) (n := min payload.length ffDl.toNat) (fun _ h => absurd h (by omega)) ?_ j
      (by omega)
    simp only [List.length_take]
    omega

/-- An idle TX engine with the buffer of a good one and a legal outcome is good. -/
theorem TxEngine.ok_of_idle {p} {t u : TxEngine} (h : t.Ok p) (hs : u.state = .idle) (hb : u.buf = t.buf)
    (hr : u.result = .success ∨ u.result = .invalidField ∨ u.result = .flowControlTimeout ∨ u.result = .aborted) : u.Ok p := by
  constructor <;> simp_all [h.buf]

/-- A separation delay is at most 1270 ticks (R251). -/
theorem stTicks_le (v : Byte) : stTicks v ≤ 1270 := by
  have := (loNibble v).isLt
  unfold stTicks
  split
  · omega
  · split <;> omega

/-- The Consecutive frame's transition keeps the TX engine as R32, R194 and R195 say. -/
theorem TxEngine.afterConsecutive_ok {p} {t : TxEngine} (h : t.Ok p) (hs : t.state = .sendCf) :
    (t.afterConsecutive (min Config.cfMax (t.len.toNat - t.pos.toNat))).Ok p := by
  have hne : t.state ≠ .idle := by rw [hs]; decide
  have h1 := h.lenMin hne; have h2 := h.posMin hne; have h3 := h.posMax hne; have h4 := h.posStep hne; have h5 := h.idx hne
  have h6 := h.written hne; have h7 := h.block (.inl hs)
  have hl := t.len.isLt
  generalize hn : min Config.cfMax (t.len.toNat - t.pos.toNat) = n
  simp only [Config.cfMax] at hn
  have ep : (BitVec.ofNat 12 (t.pos.toNat + n)).toNat = t.pos.toNat + n := by simp only [BitVec.toNat_ofNat]; omega
  have ei : (t.idx + 1).toNat = (t.idx.toNat + 1) % 16 := by simp [BitVec.toNat_add]
  have eb : (t.blkCnt + 1).toNat = (t.blkCnt.toNat + 1) % 256 := by simp [BitVec.toNat_add]
  unfold TxEngine.afterConsecutive
  simp only
  split
  · rename_i hc
    exact TxEngine.ok_of_idle h rfl rfl (.inl rfl)
  · rename_i hc
    have hc' : t.pos.toNat + n ≠ t.len.toNat := fun e => hc (BitVec.eq_of_toNat_eq (by rw [ep, e]))
    have hn7 : n = 7 := by omega
    have hq : t.idx.toNat = (1 + (t.pos.toNat - 6) / 7) % 16 := h5
    have hidx : (t.idx.toNat + 1) % 16 = (1 + (t.pos.toNat + n - 6) / 7) % 16 := by omega
    split
    · rename_i hbk
      refine ⟨h.buf, fun _ => h1, fun _ => ?_, fun _ => ?_, fun _ => ?_, fun _ => ?_, fun _ => h6, fun hh => ?_,
        fun _ => by show (BitVec.ofNat 32 5000).toNat ≤ 5000; decide, fun hh => ?_, fun hh => ?_, h.result⟩
      · show 6 ≤ (BitVec.ofNat 12 (t.pos.toNat + n)).toNat; omega
      · show (BitVec.ofNat 12 (t.pos.toNat + n)).toNat < t.len.toNat; omega
      · show ((BitVec.ofNat 12 (t.pos.toNat + n)).toNat - 6) % 7 = 0; omega
      · show (t.idx + 1).toNat = (1 + ((BitVec.ofNat 12 (t.pos.toNat + n)).toNat - 6) / 7) % 16; rw [ep, ei, hidx]
      · rcases hh with hh | hh <;> cases hh
      · cases hh
      · cases hh
    · rename_i hbk
      refine ⟨h.buf, fun _ => h1, fun _ => ?_, fun _ => ?_, fun _ => ?_, fun _ => ?_, fun _ => h6,
        fun _ hb0 => ?_, fun hh => ?_, fun hh => ?_, fun hh => ?_, h.result⟩
      · show 6 ≤ (BitVec.ofNat 12 (t.pos.toNat + n)).toNat; omega
      · show (BitVec.ofNat 12 (t.pos.toNat + n)).toNat < t.len.toNat; omega
      · show ((BitVec.ofNat 12 (t.pos.toNat + n)).toNat - 6) % 7 = 0; omega
      · show (t.idx + 1).toNat = (1 + ((BitVec.ofNat 12 (t.pos.toNat + n)).toNat - 6) / 7) % 16; rw [ep, ei, hidx]
      · have := h7 hb0
        have hbl := t.bs.isLt
        have : ¬ (t.blkCnt + 1 = t.bs) := fun e => hbk ⟨hb0, e⟩
        have : (t.blkCnt + 1).toNat ≠ t.bs.toNat := fun e => this (BitVec.eq_of_toNat_eq e)
        show (t.blkCnt + 1).toNat < t.bs.toNat
        omega
      · cases hh
      · have := stTicks_le t.st
        show (BitVec.ofNat 32 (stTicks t.st)).toNat ≤ stTicks t.st
        simp only [BitVec.toNat_ofNat]
        omega
      · cases hh

end Sys2Proof.Machine
end

