-- ==== Sys2Proof/Laws/PerInstr.lean ====
section
/-! SUPPORT. Per-instruction laws: for each constructor, decoding the encoding of a well-formed instruction gives it back (30_encoding.md R70 to R76, R81; 20_memory.md R52). -/

-- The lemmas below realize the same equations; one thread at a time keeps their memory bounded.
set_option Elab.async false

namespace Sys2Proof.Laws.EncodeDecode

/-- Decoding the encoding of the instruction gives it back, under every legal parameter setting that admits it. -/
def Statement (i : Instr) : Prop :=
  ∀ p : Config.Params, p.wf → i.wf p = true → decode p (encode p i) = .ok i

theorem encpub (a b c : Word) : Statement (.encpub a b c) := by
  intro p _ _
  simp [encode, commandInput, decode, decodeCommand]

theorem decpub (a : Word) : Statement (.decpub a) := by
  intro p _ _
  simp [encode, commandInput, decode, decodeCommand]

theorem encsvc (a b c : Word) : Statement (.encsvc a b c) := by
  intro p _ _
  simp [encode, commandInput, decode, decodeCommand]

theorem decsvc (a : Word) : Statement (.decsvc a) := by
  intro p _ _
  simp [encode, commandInput, decode, decodeCommand]

theorem classify (a b c d : Word) : Statement (.classify a b c d) := by
  intro p _ _
  simp [encode, commandInput, decode, decodeCommand]

theorem wrbuf (a b : Word) : Statement (.wrbuf a b) := by
  intro p _ _
  simp [encode, commandInput, decode, decodeCommand]

theorem send (a b c d : Word) : Statement (.send a b c d) := by
  intro p _ _
  simp [encode, commandInput, decode, decodeCommand]

theorem status : Statement .status := by
  intro p _ _
  simp [encode, commandInput, decode, decodeCommand]

theorem reservedOp0 : Statement .reservedOp0 := by
  intro p _ _
  simp [encode, commandInput, decode, decodeCommand]

theorem reservedOp9 : Statement .reservedOp9 := by
  intro p _ _
  simp [encode, commandInput, decode, decodeCommand]

theorem reservedOpA : Statement .reservedOpA := by
  intro p _ _
  simp [encode, commandInput, decode, decodeCommand]

theorem reservedOpB : Statement .reservedOpB := by
  intro p _ _
  simp [encode, commandInput, decode, decodeCommand]

theorem reservedOpC : Statement .reservedOpC := by
  intro p _ _
  simp [encode, commandInput, decode, decodeCommand]

theorem reservedOpD : Statement .reservedOpD := by
  intro p _ _
  simp [encode, commandInput, decode, decodeCommand]

theorem reservedOpE : Statement .reservedOpE := by
  intro p _ _
  simp [encode, commandInput, decode, decodeCommand]

theorem reservedOpF : Statement .reservedOpF := by
  intro p _ _
  simp [encode, commandInput, decode, decodeCommand]

theorem reservedCwHigh (cw : Word) : Statement (.reservedCwHigh cw) := by
  intro p _ hw
  have h : cw.extractLsb' 4 28 ≠ 0 := by simpa [Instr.wf] using hw
  simp only [encode, commandInput, decode, decodeCommand, if_pos h]

theorem idPub (prio : BitVec 3) (doid : BitVec 16) (src : BitVec 8) (len : Byte) (data : List Byte) :
    Statement (.idPub prio doid src len data) := by
  intro p _ hw
  have h : data.length = 8 := by simpa [Instr.wf] using hw
  simp [encode, decode, decodeIdent, h]

theorem idSvc (head : ServiceHead) (data : List Byte) : Statement (.idSvc head data) := by
  intro p hp hw
  simp only [Instr.wf, Bool.and_eq_true, beq_iff_eq] at hw
  have hd : p.svcDisc ≠ p.pubDisc := Ne.symm hp.1
  simp [encode, decode, decodeIdent, hw.2, hd, ServiceHead.markerOk_of_wf hw.1]

theorem idReservedDisc (prio : BitVec 3) (disc : BitVec 2) (low : BitVec 24) (len : Byte) (data : List Byte) :
    Statement (.idReservedDisc prio disc low len data) := by
  intro p _ hw
  simp only [Instr.wf, Bool.and_eq_true, beq_iff_eq, bne_iff_ne, ne_eq] at hw
  obtain ⟨⟨h1, h2⟩, h3⟩ := hw
  simp [encode, decode, decodeIdent, h1, h2, h3]

theorem pciSf (head : ServiceHead) (sfDl : BitVec 4) (rest : List Byte) : Statement (.pciSf head sfDl rest) := by
  intro p _ hw
  simp only [Instr.wf, Bool.and_eq_true, beq_iff_eq] at hw
  obtain ⟨b1, b2, tail, rfl⟩ : ∃ b1 b2 tail, rest = b1 :: b2 :: tail := by
    match rest, hw.2 with
    | b1 :: b2 :: tail, _ => exact ⟨b1, b2, tail, rfl⟩
  have h : tail.length = 5 := by simpa using hw.2
  simp [encode, decode, decodeService, h, ServiceHead.markerOk_of_wf hw.1]

theorem pciFf (head : ServiceHead) (ffDl : BitVec 12) (rest : List Byte) : Statement (.pciFf head ffDl rest) := by
  intro p _ hw
  simp only [Instr.wf, Bool.and_eq_true, beq_iff_eq] at hw
  obtain ⟨b2, tail, rfl⟩ : ∃ b2 tail, rest = b2 :: tail := by
    match rest, hw.2 with
    | b2 :: tail, _ => exact ⟨b2, tail, rfl⟩
  have h : tail.length = 5 := by simpa using hw.2
  simp [encode, decode, decodeService, h, ServiceHead.markerOk_of_wf hw.1]

theorem pciCf (head : ServiceHead) (sn : BitVec 4) (rest : List Byte) : Statement (.pciCf head sn rest) := by
  intro p _ hw
  simp only [Instr.wf, Bool.and_eq_true, beq_iff_eq] at hw
  obtain ⟨b1, b2, tail, rfl⟩ : ∃ b1 b2 tail, rest = b1 :: b2 :: tail := by
    match rest, hw.2 with
    | b1 :: b2 :: tail, _ => exact ⟨b1, b2, tail, rfl⟩
  have h : tail.length = 5 := by simpa using hw.2
  simp [encode, decode, decodeService, h, ServiceHead.markerOk_of_wf hw.1]

theorem pciFc (head : ServiceHead) (fs : BitVec 4) (bs st : Byte) (rest : List Byte) : Statement (.pciFc head fs bs st rest) := by
  intro p _ hw
  simp only [Instr.wf, Bool.and_eq_true, beq_iff_eq] at hw
  simp [encode, decode, decodeService, hw.2, ServiceHead.markerOk_of_wf hw.1]

theorem pciReserved (head : ServiceHead) (nib low : BitVec 4) (rest : List Byte) :
    Statement (.pciReserved head nib low rest) := by
  intro p _ hw
  simp only [Instr.wf, Bool.and_eq_true, beq_iff_eq, decide_eq_true_eq] at hw
  obtain ⟨⟨hh, hn⟩, hr⟩ := hw
  obtain ⟨b1, b2, tail, rfl⟩ : ∃ b1 b2 tail, rest = b1 :: b2 :: tail := by
    match rest, hr with
    | b1 :: b2 :: tail, _ => exact ⟨b1, b2, tail, rfl⟩
  have h : tail.length = 5 := by simpa using hr
  have hn : 4 ≤ nib.toNat := by simpa [BitVec.le_def] using hn
  simp only [encode, decode, decodeService, h, ServiceHead.markerOk_of_wf hh, hiNibble_pciByte, loNibble_pciByte]
  match e : nib.toNat, hn with
  | n + 4, _ => rfl

theorem fcContinue : Statement .fcContinue := fun _ _ _ => rfl

theorem fcWait : Statement .fcWait := fun _ _ _ => rfl

theorem fcAbort : Statement .fcAbort := fun _ _ _ => rfl

theorem fcReserved (fs : BitVec 4) : Statement (.fcReserved fs) := by
  intro p _ hw
  have hf : 3 ≤ fs.toNat := by simpa [Instr.wf, BitVec.le_def] using hw
  simp only [encode, decode, decodeFlow, hiNibble_pciByte, loNibble_pciByte]
  match e : fs.toNat, hf with
  | n + 3, _ => rfl

theorem rxframe (rec : FrameRecord) : Statement (.rxframe rec) := by
  intro p _ hw
  have h : rec.data.length = 8 := by simpa [Instr.wf] using hw
  simp [encode, decode, frameImage, wordBytes, decodeRecord, h]

theorem tick : Statement .tick := fun _ _ _ => rfl

theorem txstep : Statement .txstep := fun _ _ _ => rfl

theorem poptx : Statement .poptx := fun _ _ _ => rfl

theorem popmsg : Statement .popmsg := fun _ _ _ => rfl

theorem poperr : Statement .poperr := fun _ _ _ => rfl

theorem reset : Statement .reset := fun _ _ _ => rfl

end Sys2Proof.Laws.EncodeDecode
end

