-- ==== Sys2Proof/Laws/Words.lean ====
section
/-! SUPPORT. The model's operations in the words of the statements: room in a queue, the identifier stage, identifiers and frames as numbers. -/

namespace Sys2Proof.Machine

open Sys2Proof.Spec

/-- A queue has room exactly when it holds fewer entries than its depth (R58). -/
theorem hasRoom_iff (d : Config.Depth) (n : Nat) : hasRoom d n = true ↔ belowDepth d n := by
  cases d with
  | unbounded => cases n <;> simp [hasRoom, belowDepth]
  | bounded k =>
    cases n with
    | zero => simp [hasRoom, belowDepth]
    | succ n => simp [hasRoom, belowDepth]

/-- The extended-format test as the identifier stage makes it (R121). -/
theorem extended_iff (w : Word) : extended w ↔ (w.extractLsb' 31 1 ≠ 0 ∧ w.extractLsb' 29 2 = 0) := by
  have h1 : w.extractLsb' 31 1 = 0 ↔ w.toNat / 2^31 % 2 = 0 := by
    rw [← BitVec.toNat_inj, toNat_slice]; simp
  have h2 : w.extractLsb' 29 2 = 0 ↔ w.toNat / 2^29 % 4 = 0 := by
    rw [← BitVec.toNat_inj, toNat_slice]; simp
  rw [ne_eq, h1, h2, extended]
  have := w.isLt
  omega

/-- The discriminator test on numbers (R121). -/
theorem identDisc_eq_iff (a : Word) (d : BitVec 2) : identDisc (a.extractLsb' 0 29) = d ↔ discOf a.toNat = d.toNat := by
  rw [← BitVec.toNat_inj, identDisc_toNat, toNat_slice, discOf]
  constructor <;> intro h <;> omega

/-- The marker test on numbers (R121). -/
theorem identMarker_eq_iff (a : Word) (d : BitVec 8) : identMarker (a.extractLsb' 0 29) = d ↔ markerOf a.toNat = d.toNat := by
  rw [← BitVec.toNat_inj, identMarker_toNat, toNat_slice, markerOf]
  constructor <;> intro h <;> omega

/-- The identifier stage finds a Publication, a Service identifier, or neither (R121). -/
theorem identStage_cases (p : Config.Params) (w : Word) :
    (isPublication p w ∧
      identStage p w =
        .ok (.pub (identPrio (w.extractLsb' 0 29)) (identDoid (w.extractLsb' 0 29)) (identSrc (w.extractLsb' 0 29)))) ∨
    (isService p w ∧ ¬ isPublication p w ∧
      identStage p w =
        .ok (.svc (identPrio (w.extractLsb' 0 29)) (identDst (w.extractLsb' 0 29)) (identSrc (w.extractLsb' 0 29)))) ∨
    (¬ isPublication p w ∧ ¬ isService p w ∧ identStage p w = .error .malformedIdentifier) := by
  simp only [isPublication, isService, ← identDisc_eq_iff, extended_iff, ← identMarker_eq_iff, ne_eq]
  unfold identStage
  simp only
  by_cases h1 : w.extractLsb' 31 1 = 0
  · rw [if_pos h1]; exact .inr (.inr ⟨fun h => h.1.1 h1, fun h => h.1.1 h1, rfl⟩)
  rw [if_neg h1]
  by_cases h2 : w.extractLsb' 29 2 = 0
  · rw [if_neg (not_not.mpr h2)]
    by_cases h3 : identDisc (w.extractLsb' 0 29) = p.pubDisc
    · rw [if_pos h3]; exact .inl ⟨⟨⟨h1, h2⟩, h3⟩, rfl⟩
    · rw [if_neg h3]
      by_cases h4 : identDisc (w.extractLsb' 0 29) = p.svcDisc
      · rw [if_pos h4]
        by_cases h5 : markerOk p (identMarker (w.extractLsb' 0 29)) = true
        · rw [if_pos h5]; exact .inr (.inl ⟨⟨⟨h1, h2⟩, h3, h4, (markerOk_iff _ _).mp h5⟩, fun h => h3 h.2, rfl⟩)
        · rw [if_neg h5]
          exact .inr (.inr ⟨fun h => h3 h.2, fun h => h5 ((markerOk_iff _ _).mpr h.2.2.2), rfl⟩)
      · rw [if_neg h4]; exact .inr (.inr ⟨fun h => h3 h.2, fun h => h4 h.2.2.1, rfl⟩)
  · rw [if_pos h2]; exact .inr (.inr ⟨fun h => h2 h.1.2, fun h => h2 h.1.2, rfl⟩)

/-- The can_id number of a Publication frame (R52, R71). -/
theorem extCanId_pubIdent (p : Config.Params) (prio : BitVec 3) (doid : BitVec 16) (src : BitVec 8) :
    BitVec.ofNat 32 (2 ^ 31 + pubIdNumber p prio.toNat doid.toNat src.toNat) = extCanId (pubIdent p prio doid src) := by
  apply BitVec.eq_of_toNat_eq
  have := (extCanId (pubIdent p prio doid src)).isLt
  rw [extCanId_toNat, pubIdent_toNat] at *
  rw [BitVec.toNat_ofNat, pubIdNumber, Nat.mod_eq_of_lt this]

/-- The can_id number of a Service frame (R52, R72). -/
theorem extCanId_svcIdent (p : Config.Params) (prio : BitVec 3) (m : BitVec 8) (dst : BitVec 8) (src : BitVec 8) :
    BitVec.ofNat 32 (2 ^ 31 + svcIdNumber p prio.toNat m.toNat dst.toNat src.toNat) = extCanId (svcIdent p prio m dst src) := by
  apply BitVec.eq_of_toNat_eq
  have := (extCanId (svcIdent p prio m dst src)).isLt
  rw [extCanId_toNat, svcIdent_toNat] at *
  rw [BitVec.toNat_ofNat, svcIdNumber, Nat.mod_eq_of_lt this]

/-- The can_id number of a frame with any discriminator (R52, R70). -/
theorem extCanId_reservedIdent (prio : BitVec 3) (disc : BitVec 2) (low : BitVec 24) :
    BitVec.ofNat 32 (2 ^ 31 + prio.toNat * 2 ^ 26 + disc.toNat * 2 ^ 24 + low.toNat) = extCanId (prio ++ disc ++ low : Ident) := by
  apply BitVec.eq_of_toNat_eq
  have := (extCanId (prio ++ disc ++ low : Ident)).isLt
  rw [extCanId_toNat, reservedIdent_toNat] at *
  rw [BitVec.toNat_ofNat, Nat.mod_eq_of_lt (by omega)]; ring

/-- A frame built to be transmitted carries its identifier and bytes (R52). -/
theorem transmits_outFrame (id : Ident) (bytes : List Byte) (h : bytes.length ≤ 8) :
    Transmits (outFrame id bytes) id.toNat bytes := by
  have := id.isLt
  refine ⟨extCanId_toNat id, ?_, ?_, ?_, ?_⟩
  · simp [outFrame]; omega
  · simp [outFrame, Config.maxDlc]; omega
  · intro i hi; simp [outFrame, List.getElem?_append_left hi]
  · intro i hi h8
    rw [outFrame, List.getElem?_append_right hi, List.getElem?_replicate, if_pos]
    simp only [Config.maxDlc]; omega

end Sys2Proof.Machine
end

