-- ==== Sys2Proof/Tests/Slice0.lean ====
section
/-! SUPPORT. Tests: ill-formed terms refused, words of the spec decoded, single steps of 95_test_vectors.md, and a witness for the
hypotheses of each statement. Every expected value is the spec's. -/

-- Many closed evaluations of one decoder and one step; one thread at a time keeps their memory bounded.
set_option Elab.async false

namespace Sys2Proof.Tests

open Sys2Proof.Machine Sys2Proof.Spec

/-! ### Helpers -/

/-- The default parameters of 95_test_vectors.md: unbounded queues, and its example WAIT_INTERVAL of 3. -/
def cfg : Config.Params where
  pubDisc := 0b01
  svcDisc := 0b00
  svcMarker := 0xDA
  strictMarker := true
  waitPolicy := .rewait
  waitInterval := 3
  qTx := .unbounded
  qMsg := .unbounded
  qErr := .unbounded

/-- The same parameters without the marker check. -/
def lax : Config.Params := { cfg with strictMarker := false }

/-- The state after reset under those parameters. -/
def start : State := { State.reset with cfg := cfg }

/-- A state with queues of depth 1, all full. -/
def full : State :=
  { start with
    cfg := { cfg with qTx := .bounded 0, qMsg := .bounded 0, qErr := .bounded 0 }
    txq := [⟨0, 0, []⟩]
    msgq := [⟨.service, 0, 0, 0, 0, []⟩]
    errq := [⟨.truncatedFrame, 0, 0, 0⟩] }

/-- A buffer holding bytes from index 0. -/
def bytes (bs : List Byte) : Memory := (List.range bs.length).zip bs

/-- TX_BUF holding bytes, the TX engine idle. -/
def loaded (bs : List Byte) : State := { start with tx := { TxEngine.reset with buf := bytes bs } }

/-- A send of the eight bytes 0x30 to 0x37 (95_test_vectors.md, L = 8) in a given TX_STATE and timer, after its First frame. -/
def sending (st : TxState) (timer : BitVec 32) : State :=
  { start with
    tx :=
      { TxEngine.reset with
        state := st, id := 0x18DA0A01, len := 8, pos := 6, idx := 1, timer := timer,
        buf := bytes [0x30, 0x31, 0x32, 0x33, 0x34, 0x35, 0x36, 0x37] } }

/-- A 20-byte transfer after its First frame (95_test_vectors.md L1.4, step 1). -/
def receiving : State :=
  { start with
    ra :=
      { Reassembly.reset with
        active := true, size := 20, count := 6, prio := 6, dst := 0x01, src := 0x0A, buf := bytes [1, 2, 3, 4, 5, 6] } }

/-- The head of the frames of 95_test_vectors.md with can_id 0x98DA010A. -/
def head (len : Byte) : ServiceHead := ⟨6, 0xDA, 0x01, 0x0A, len⟩

/-- A test on the state an instruction answers. -/
def after (i : Instr) (s : State) (f : State → Bool) : Bool :=
  match exec i s with
  | .next t => f t
  | _ => false

/-- The response an instruction answers. -/
def answers (i : Instr) (s : State) (e : ErrKind) (y0 y1 y2 y3 : Word) : Bool :=
  after i s fun t => t.out == .response ⟨e, y0, y1, y2, y3⟩

/-! ### Well-formedness: an ill-formed term for each check -/

theorem test_wf_cwHigh : (Instr.reservedCwHigh 0xF).wf cfg = false := by decide
theorem test_wf_idPub_data : (Instr.idPub 0 0 0 0 []).wf cfg = false := by decide
theorem test_wf_idSvc_data : (Instr.idSvc (head 0) [0]).wf cfg = false := by decide
theorem test_wf_idSvc_marker : (Instr.idSvc ⟨0, 0xDB, 0, 0, 0⟩ [0, 0, 0, 0, 0, 0, 0, 0]).wf cfg = false := by decide
theorem test_wf_idReservedDisc_pub : (Instr.idReservedDisc 0 0b01 0 0 [0, 0, 0, 0, 0, 0, 0, 0]).wf cfg = false := by decide
theorem test_wf_idReservedDisc_svc : (Instr.idReservedDisc 0 0b00 0 0 [0, 0, 0, 0, 0, 0, 0, 0]).wf cfg = false := by decide
theorem test_wf_idReservedDisc_data : (Instr.idReservedDisc 0 0b10 0 0 []).wf cfg = false := by decide
theorem test_wf_pciSf_data : (Instr.pciSf (head 1) 0 []).wf cfg = false := by decide
theorem test_wf_pciFf_data : (Instr.pciFf (head 1) 0 [0, 0, 0, 0, 0, 0, 0]).wf cfg = false := by decide
theorem test_wf_pciCf_marker : (Instr.pciCf ⟨0, 0, 0, 0, 1⟩ 0 [0, 0, 0, 0, 0, 0, 0]).wf cfg = false := by decide
theorem test_wf_pciCf_data : (Instr.pciCf (head 1) 0 []).wf cfg = false := by decide
theorem test_wf_pciFc_data : (Instr.pciFc (head 1) 0 0 0 [0]).wf cfg = false := by decide
theorem test_wf_pciReserved_nibble : (Instr.pciReserved (head 1) 3 0 [0, 0, 0, 0, 0, 0, 0]).wf cfg = false := by decide
theorem test_wf_pciReserved_data : (Instr.pciReserved (head 1) 4 0 []).wf cfg = false := by decide
theorem test_wf_fcReserved : (Instr.fcReserved 2).wf cfg = false := by decide
theorem test_wf_rxframe_data : (Instr.rxframe ⟨0, 0, [0]⟩).wf cfg = false := by decide
theorem test_wf_params : ¬ Config.Params.wf { cfg with pubDisc := 0b00 } ∧ ¬ Config.Params.wf { cfg with waitInterval := 0 } := by decide

/-! ### Decoding: words written out from 30_encoding.md and 95_test_vectors.md -/

/-- P1 line 1. -/
theorem test_decode_encpub : decodeTableWord 160 0x14000000710000000600000001 = some (.encpub 6 0x71 0x14) := by decide
/-- P1 line 2. -/
theorem test_decode_decpub : decodeTableWord 160 0x1900711400000002 = some (.decpub 0x19007114) := by decide
/-- P1 line 3. -/
theorem test_decode_encsvc : decodeTableWord 160 0x10000000a0000000600000003 = some (.encsvc 6 0x0A 1) := by decide
/-- P1 line 4. -/
theorem test_decode_decsvc : decodeTableWord 160 0x18da0a0100000004 = some (.decsvc 0x18DA0A01) := by decide
/-- P1 line 7. -/
theorem test_decode_classify :
    decodeTableWord 160 0x66665641fa000000059900711400000005 = some (.classify 0x99007114 5 0x665641FA 0x66) := by decide
/-- P3 line 2. -/
theorem test_decode_wrbuf : decodeTableWord 160 0x20000000100000006 = some (.wrbuf 1 2) := by decide
/-- P2 line 21. -/
theorem test_decode_send : decodeTableWord 160 0x14000000010000000a0000000600000007 = some (.send 6 0x0A 1 0x14) := by decide
/-- P2 line 22. -/
theorem test_decode_status : decodeTableWord 160 0x8 = some .status := by decide
theorem test_decode_reservedOp0 : decodeTableWord 32 0x0 = some .reservedOp0 := by decide
theorem test_decode_reservedOp9 : decodeTableWord 32 0x9 = some .reservedOp9 := by decide
theorem test_decode_reservedOpA : decodeTableWord 32 0xA = some .reservedOpA := by decide
theorem test_decode_reservedOpB : decodeTableWord 32 0xB = some .reservedOpB := by decide
theorem test_decode_reservedOpC : decodeTableWord 32 0xC = some .reservedOpC := by decide
theorem test_decode_reservedOpD : decodeTableWord 32 0xD = some .reservedOpD := by decide
theorem test_decode_reservedOpE : decodeTableWord 32 0xE = some .reservedOpE := by decide
theorem test_decode_reservedOpF : decodeTableWord 32 0xF = some .reservedOpF := by decide
/-- L2.1, the last row: OP 0x1 with CW[4] set. -/
theorem test_decode_reservedCwHigh : decodeTableWord 160 0x14000000710000000600000011 = some (.reservedCwHigh 0x11) := by decide
/-- R71: 110 01 0000000001110001 00010100. -/
theorem test_decode_idPub : decodeTableWord 32 0x19007114 = some (.idPub 6 0x71 0x14 0 [0, 0, 0, 0, 0, 0, 0, 0]) := by decide
/-- R72: 110 00 11011010 00001010 00000001. -/
theorem test_decode_idSvc : decodeTableWord 32 0x18DA0A01 = some (.idSvc ⟨6, 0xDA, 0x0A, 0x01, 0⟩ [0, 0, 0, 0, 0, 0, 0, 0]) := by decide
/-- R79, with DISC = 0b10. -/
theorem test_decode_idReservedDisc :
    decodeTableWord 32 0x1ADA0A01 = some (.idReservedDisc 6 0b10 0xDA0A01 0 [0, 0, 0, 0, 0, 0, 0, 0]) := by decide
/-- P3 line 5 by its PCI byte: byte 0 = {0x1, FF_DL[11:8]}, byte 1 = FF_DL[7:0] (R75). -/
theorem test_decode_pciFf :
    (decode cfg (.rx (.service (head 8) [0x10, 0x0D, 0x85, 0xA1, 0x18, 0x71, 0xFB, 0x40]))).toOption =
      some (.pciFf (head 8) 13 [0x85, 0xA1, 0x18, 0x71, 0xFB, 0x40]) := by decide
theorem test_decode_pciSf : decodeTableWord 8 0x02 = some (.pciSf ⟨0, 0xDA, 0, 0, 0⟩ 2 [0, 0, 0, 0, 0, 0, 0]) := by decide
theorem test_decode_pciCf : decodeTableWord 8 0x2F = some (.pciCf ⟨0, 0xDA, 0, 0, 0⟩ 15 [0, 0, 0, 0, 0, 0, 0]) := by decide
/-- The frame of L2.2, "FC Wait, BS 2, ST 0xF3". -/
theorem test_decode_pciFc :
    (decode cfg (.rx (.service (head 3) [0x31, 0x02, 0xF3, 0, 0, 0, 0, 0]))).toOption =
      some (.pciFc (head 3) 1 2 0xF3 [0, 0, 0, 0, 0]) := by decide
theorem test_decode_pciReserved : decodeTableWord 8 0x4C = some (.pciReserved ⟨0, 0xDA, 0, 0, 0⟩ 4 12 [0, 0, 0, 0, 0, 0, 0]) := by decide
theorem test_decode_fcContinue : decodeTableWord 8 0x30 = some .fcContinue := by decide
theorem test_decode_fcWait : decodeTableWord 8 0x31 = some .fcWait := by decide
theorem test_decode_fcAbort : decodeTableWord 8 0x32 = some .fcAbort := by decide
theorem test_decode_fcReserved : decodeTableWord 16 0x3F = some (.fcReserved 15) := by decide
/-- S2 step 3 as the 16-byte image of R52: can_id little-endian, len, padding, data. -/
theorem test_decode_rxframe :
    decodeTableWord 128 0x84010000000298da010a = some (.rxframe ⟨0x98DA010A, 2, [0x01, 0x84, 0, 0, 0, 0, 0, 0]⟩) := by decide
/-- The port actions have no command encoding (L3): their turns decode to them. -/
theorem test_decode_ports :
    decode cfg .tick = .ok .tick ∧ decode cfg .txstep = .ok .txstep ∧ decode cfg .poptx = .ok .poptx ∧
      decode cfg .popmsg = .ok .popmsg ∧ decode cfg .poperr = .ok .poperr ∧ decode cfg .reset = .ok .reset :=
  ⟨rfl, rfl, rfl, rfl, rfl, rfl⟩

theorem test_decode_rejects :
    (decode cfg (.rx (.record [0]))).toOption = none ∧ (decode cfg (.rx (.ident 0 0 []))).toOption = none ∧
      (decode cfg (.rx (.service (head 8) [0x10]))).toOption = none ∧ (decode cfg (.flow 0x20)).toOption = none := by decide

/-- A Service identifier with the wrong marker is of no row: it arrives as a plain frame (L2.2, "wrong marker"). -/
theorem test_decode_wrongMarker :
    (decode cfg (.rx (.ident 0x18000A01 3 [2, 1, 2, 0, 0, 0, 0, 0]))).toOption =
      some (.rxframe ⟨0x98000A01, 3, [2, 1, 2, 0, 0, 0, 0, 0]⟩) := by decide

/-! ### One step: the vectors of 95_test_vectors.md -/

/-- L2.1. -/
theorem test_encpub : answers (.encpub 3 0x1234 0x56) start .success 0x0D123456 0 0 0 = true := by decide
/-- L2.1; 90_conflicts.md C1. -/
theorem test_encpub_range : answers (.encpub 0 65536 0) start .invalidField 0 0 0 0 = true := by decide
/-- L2.1. -/
theorem test_decpub : answers (.decpub 0x1DFFFFFF) start .success 7 0xFFFF 0xFF 0 = true := by decide
/-- L2.1. -/
theorem test_decpub_service : answers (.decpub 0x18DA0A01) start .malformedIdentifier 0 0 0 0 = true := by decide
/-- L2.1. -/
theorem test_encsvc : answers (.encsvc 6 0x01 0x0A) start .success 0x18DA010A 0 0 0 = true := by decide
/-- L2.1. -/
theorem test_encsvc_range : answers (.encsvc 0 256 0) start .invalidField 0 0 0 0 = true := by decide
/-- L2.1: DECSVC 0x18000A01 under both settings of STRICT_MARKER. -/
theorem test_decsvc_marker :
    answers (.decsvc 0x18000A01) start .malformedIdentifier 0 0 0 0 = true ∧
      answers (.decsvc 0x18000A01) { start with cfg := lax } .success 6 0x0A 0x01 0 = true := by decide

/-- L2.1. -/
theorem test_decsvc_width : answers (.decsvc 0x20DA0000) start .malformedIdentifier 0 0 0 0 = true := by decide
/-- L2.2: FF with 4095 bytes declared, and FC Wait with BS 2 and ST 0xF3. -/
theorem test_classify :
    answers (.classify 0x98DA010A 8 0x0100FF1F 0x05040302) start .success 2 0x0600010A 0xFFF 6 = true ∧
      answers (.classify 0x98DA0A01 3 0x00F30231 0) start .success 4 0x06000A01 0x00F30201 0 = true := by decide

/-- L2.2: the length stage comes before the identifier stage; bit 29 set. -/
theorem test_classify_errors :
    answers (.classify 0x18DA0A01 9 0x00020102 0) start .invalidField 0 0 0 0 = true ∧
      answers (.classify 0xB8DA0A01 3 0x00020102 0) start .malformedIdentifier 0 0 0 0 = true := by decide

/-- L2.4, "WRBUF out of range". -/
theorem test_wrbuf :
    after (.wrbuf 1 0x102) start (fun t => t.tx.buf == [] && t.out == .response ⟨.invalidField, 0, 0, 0, 0⟩) = true := by decide
/-- R170: writing an index again keeps the last value. -/
theorem test_wrbuf_writes : after (.wrbuf 0 0x07) (loaded [1, 2]) (fun t => t.tx.buf == [(0, 7), (1, 2)]) = true := by decide
/-- S2 step 2: a Single frame of six bytes, padded in its record. -/
theorem test_send_single :
    after (.send 6 0x0A 0x01 6) (loaded [0x07, 0x05, 0xA1, 0x18, 0x61, 0xF5])
      (fun t => t.txq == [⟨0x98DA0A01, 7, [0x06, 0x07, 0x05, 0xA1, 0x18, 0x61, 0xF5, 0x00]⟩] && t.tx.done &&
        t.tx.result == .success && t.tx.state == .idle) = true := by decide

/-- P5 line 9: the First frame of eight bytes. -/
theorem test_send_first :
    after (.send 6 0x0A 0x01 8) (loaded [0x30, 0x31, 0x32, 0x33, 0x34, 0x35, 0x36, 0x37])
      (fun t => t.txq == [⟨0x98DA0A01, 8, [0x10, 0x08, 0x30, 0x31, 0x32, 0x33, 0x34, 0x35]⟩] && t.tx.timer == 5000 &&
        t.tx.state == .waitFc && t.tx.len == 8 && t.tx.pos == 6 && t.tx.idx == 1) = true := by decide

/-- P2 line 22. -/
theorem test_status : answers .status (sending .waitFc 5000) .success 1 0 0 0 = true := by decide
/-- L2.1, R82: the reserved words answer InvalidField. -/
theorem test_reserved :
    answers .reservedOp0 start .invalidField 0 0 0 0 = true ∧ answers .reservedOp9 start .invalidField 0 0 0 0 = true ∧
      answers .reservedOpA start .invalidField 0 0 0 0 = true ∧ answers .reservedOpB start .invalidField 0 0 0 0 = true ∧
      answers .reservedOpC start .invalidField 0 0 0 0 = true ∧ answers .reservedOpD start .invalidField 0 0 0 0 = true ∧
      answers .reservedOpE start .invalidField 0 0 0 0 = true ∧ answers .reservedOpF start .invalidField 0 0 0 0 = true ∧
      answers (.reservedCwHigh 0x11) start .invalidField 0 0 0 0 = true := by decide

/-- S4: one Publication frame gives one record. -/
theorem test_idPub :
    after (.idPub 6 0x71 0x14 5 [0xFA, 0x41, 0x56, 0x66, 0x66, 0, 0, 0]) start
      (fun t => t.msgq == [⟨.publication, 6, 0x71, 0x14, 5, [0xFA, 0x41, 0x56, 0x66, 0x66]⟩]) = true := by decide

/-- R124: a Service frame acts by its byte 0, here the Single frame of S2 step 3. -/
theorem test_idSvc :
    after (.idSvc (head 2) [0x01, 0x84, 0, 0, 0, 0, 0, 0]) start
      (fun t => t.msgq == [⟨.service, 6, 0x0001, 0x0A, 1, [0x84]⟩]) = true := by decide

/-- R79: DISC of neither family, reported with nibble 0 (R56). -/
theorem test_idReservedDisc :
    after (.idReservedDisc 6 0b10 0xDA0A01 3 [0x42, 1, 2, 0, 0, 0, 0, 0]) start
      (fun t => t.errq == [⟨.malformedIdentifier, 0, 0x9ADA0A01, 3⟩]) = true := by decide

/-- L2.3, "SF during a transfer". -/
theorem test_pciSf :
    after (.pciSf (head 2) 1 [0x84, 0, 0, 0, 0, 0, 0]) receiving
      (fun t => t.msgq == [⟨.service, 6, 0x0001, 0x0A, 1, [0x84]⟩] && t.ra == receiving.ra) = true := by decide

/-- L2.3, "FF declares fewer bytes than it carries". -/
theorem test_pciFf :
    after (.pciFf (head 8) 3 [0xAA, 0xBB, 0xCC, 0xDD, 0xEE, 0xFF]) start
      (fun t => t.ra.active && t.ra.size == 3 && t.ra.count == 3 && t.ra.buf == [(0, 0xAA), (1, 0xBB), (2, 0xCC)] &&
        t.msgq == [] && t.txq == [⟨0x98DA0A01, 3, [0x30, 0, 0, 0, 0, 0, 0, 0]⟩]) = true := by decide

/-- L2.3, "Padding in the last CF". -/
theorem test_pciCf_completes :
    after (.pciCf (head 8) 1 [0x07, 0x08, 0xCC, 0xCC, 0xCC, 0xCC, 0xCC])
      { receiving with ra := { receiving.ra with size := 8 } }
      (fun t => t.msgq == [⟨.service, 6, 0x0001, 0x0A, 8, [1, 2, 3, 4, 5, 6, 7, 8]⟩] && !t.ra.active && t.ra.lastIdx == 1) = true := by
  decide

/-- L1.4 step 2: the wrong index is dropped. -/
theorem test_pciCf_drops :
    after (.pciCf (head 8) 2 [0x0D, 0x0E, 0x0F, 0x10, 0x11, 0x12, 0x13]) receiving
      (fun t => t == { receiving with out := .nothing }) = true := by decide

/-- P4 line 33, and L2.3 "FC while the TX engine is IDLE". -/
theorem test_pciFc :
    after (.pciFc (head 3) 0 2 5 [0, 0, 0, 0, 0]) (sending .waitFc 5000) (fun t => t.fc == ⟨true, 0, 2, 5⟩) = true ∧
      after (.pciFc (head 3) 0 0 0 [0, 0, 0, 0, 0]) start (fun t => t == start) = true := by decide

/-- P1 line 8 on the RX port: UnknownFrameType with its nibble (R56, R129). -/
theorem test_pciReserved :
    after (.pciReserved (head 3) 4 0 [0, 0, 0, 0, 0, 0, 0]) start
      (fun t => t.errq == [⟨.unknownFrameType, 4, 0x98DA010A, 3⟩]) = true := by decide

/-- P4 line 34. -/
theorem test_fcContinue :
    after .fcContinue { sending .waitFc 5000 with fc := ⟨true, 0, 2, 5⟩ }
      (fun t => !t.fc.valid && t.tx.bs == 2 && t.tx.st == 5 && t.tx.blkCnt == 0 && t.tx.state == .sendCf) = true := by decide

/-- P5 line 12. -/
theorem test_fcWait :
    after .fcWait { sending .waitFc 5000 with fc := ⟨true, 1, 0, 0⟩ }
      (fun t => !t.fc.valid && t.tx.timer == 3 && t.tx.state == .waitPause) = true := by decide

/-- P4 line 43. -/
theorem test_fcAbort :
    after .fcAbort { sending .waitFc 5000 with fc := ⟨true, 2, 0, 0⟩ }
      (fun t => !t.fc.valid && t.tx.done && t.tx.result == .aborted && t.tx.state == .idle) = true := by decide

/-- R187: a reserved flag is an Abort. -/
theorem test_fcReserved :
    after (.fcReserved 15) { sending .waitFc 5000 with fc := ⟨true, 15, 0, 0⟩ }
      (fun t => t.tx.result == .aborted && t.tx.state == .idle) = true := by decide

/-- P3 line 5. -/
theorem test_rxframe :
    after (.rxframe ⟨0x98DA010A, 8, [0x10, 0x0D, 0x85, 0xA1, 0x18, 0x71, 0xFB, 0x40]⟩) start
      (fun t => t.ra == ⟨true, 13, 6, 0, 6, 0x01, 0x0A, bytes [0x85, 0xA1, 0x18, 0x71, 0xFB, 0x40]⟩ &&
        t.txq == [⟨0x98DA0A01, 3, [0x30, 0, 0, 0, 0, 0, 0, 0]⟩]) = true := by decide

/-- R121, R141: an RX record without the extended-identifier flag; R58: a full ERRQ leaves it without a step. -/
theorem test_rxframe_error :
    after (.rxframe ⟨0x19007114, 1, [2, 0, 0, 0, 0, 0, 0, 0]⟩) start
      (fun t => t.errq == [⟨.malformedIdentifier, 0, 0x19007114, 1⟩]) = true ∧
      after (.rxframe ⟨0x19007114, 1, [2, 0, 0, 0, 0, 0, 0, 0]⟩) full (fun t => t == { full with out := .noStep }) = true := by decide

/-- L2.4, "Timeout": the 4999th and the last tick; R190: no effect in SEND_CF. -/
theorem test_tick :
    after .tick (sending .waitFc 2) (fun t => t.tx.timer == 1) = true ∧
      after .tick (sending .waitFc 0) (fun t => t.tx.timer == 0) = true ∧
      after .tick (sending .sendCf 2) (fun t => t.tx.timer == 2) = true := by decide

/-- L2.4, L = 8: the last Consecutive frame ends the send. -/
theorem test_txstep_last :
    after .txstep (sending .sendCf 0)
      (fun t => t.txq == [⟨0x98DA0A01, 3, [0x21, 0x36, 0x37, 0, 0, 0, 0, 0]⟩] && t.tx.done && t.tx.result == .success &&
        t.tx.state == .idle && t.tx.pos == 8 && t.tx.idx == 2) = true := by decide

/-- P5 lines 14 and 17: the end of the pause under REWAIT, and the flow-control timeout. -/
theorem test_txstep_timer :
    after .txstep (sending .waitPause 0) (fun t => t.tx.state == .waitFc && t.tx.timer == 5000) = true ∧
      after .txstep (sending .waitFc 0) (fun t => t.tx.state == .idle && t.tx.result == .flowControlTimeout) = true := by decide

/-- R58: the oldest entry leaves. -/
theorem test_pops :
    after .poptx { start with txq := [⟨1, 1, []⟩, ⟨2, 2, []⟩] } (fun t => t.out == .frame ⟨1, 1, []⟩ && t.txq == [⟨2, 2, []⟩]) = true ∧
      after .popmsg full (fun t => t.msgq == [] && t.out == .message ⟨.service, 0, 0, 0, 0, []⟩) = true ∧
      after .poperr start (fun t => t.out == .noStep) = true := by decide

/-- L2.5, "Reset during a send". -/
theorem test_reset : after .reset { sending .waitFc 5000 with txq := [⟨0, 0, []⟩] } (fun t => t == start) = true := by decide

/-- L1.1, L2.4: the separation times the source gives and the edges of its ranges. -/
theorem test_stTicks :
    [0x05, 0xF3, 0x80, 0x7F, 0xF0, 0xF1, 0xF9, 0xFA].map stTicks = [50, 3, 0, 1270, 0, 1, 9, 0] := by decide

/-- A step takes its command off the port, and withFetchWord presents one: P1 line 2's opcode with operand 0. -/
theorem test_step :
    (match step (State.reset.withFetchWord 32 2) with
      | .next t => t.out == .response ⟨.malformedIdentifier, 0, 0, 0, 0⟩ && t.cmdPort == [] && t.sched == []
      | _ => false) = true := by decide

/-! ### Witnesses: states and operands that meet the hypotheses of the statements -/

/-- The state after reset with queues of depth 1, all empty. -/
def tight : State := { start with cfg := { cfg with qTx := .bounded 0, qMsg := .bounded 0, qErr := .bounded 0 } }

/-- A queue with room, in the words of the statements. -/
theorem room {d : Config.Depth} {n : Nat} (h : hasRoom d n = true) : belowDepth d n := (hasRoom_iff d n).mp h

theorem tight_room :
    belowDepth tight.cfg.qTx tight.txq.length ∧ belowDepth tight.cfg.qMsg tight.msgq.length ∧
      belowDepth tight.cfg.qErr tight.errq.length :=
  ⟨room rfl, room rfl, room rfl⟩

/-- Full queues have no room. -/
theorem full_room :
    ¬ belowDepth full.cfg.qTx full.txq.length ∧ ¬ belowDepth full.cfg.qMsg full.msgq.length ∧
      ¬ belowDepth full.cfg.qErr full.errq.length :=
  ⟨fun h => absurd ((hasRoom_iff _ _).mpr h) (by decide), fun h => absurd ((hasRoom_iff _ _).mpr h) (by decide),
    fun h => absurd ((hasRoom_iff _ _).mpr h) (by decide)⟩

/-- A send in progress meets the invariant in every TX_STATE, its timer expired. -/
theorem sending_inv (st : TxState) : (sending st 0).Inv where
  cfg := show cfg.wf by decide
  ra := show Reassembly.Ok .reset from ⟨rfl, Nat.le_refl _, fun i h => absurd h (Nat.not_lt_zero i)⟩
  tx := by
    cases st <;> refine ⟨rfl, fun _ => by decide, fun _ => by decide, fun _ => by decide, fun _ => by decide, fun _ => by decide,
      fun _ => ?_, fun _ h => absurd rfl h, fun _ => by decide, fun _ => by decide, fun _ => by decide, .inl rfl⟩ <;>
    · unfold Memory.writtenBelow; decide
  flow := fun h => by cases h
  txq := fun _ h => by cases h
  msgq := fun _ h => by cases h
  errq := fun _ h => by cases h
  txqDepth := trivial
  msgqDepth := trivial
  errqDepth := trivial

/-- The state after reset, with queues of depth 1, meets the invariant. -/
theorem tight_inv : tight.Inv where
  cfg := by decide
  ra := show Reassembly.Ok .reset from ⟨rfl, Nat.le_refl _, fun i h => absurd h (Nat.not_lt_zero i)⟩
  tx := by constructor <;> simp [tight, start, State.reset, TxEngine.reset, Memory.wf]
  flow := fun h => by cases h
  txq := fun _ h => by cases h
  msgq := fun _ h => by cases h
  errq := fun _ h => by cases h
  txqDepth := Nat.zero_le _
  msgqDepth := Nat.zero_le _
  errqDepth := Nat.zero_le _

theorem witness_EncpubPacksPublicationIdentifier :
    ((7 : Word).toNat ≤ 7 ∧ (65535 : Word).toNat ≤ 65535 ∧ (255 : Word).toNat ≤ 255) ∧
      7 < (8 : Word).toNat ∧ 65535 < (65536 : Word).toNat ∧ 255 < (256 : Word).toNat := by decide

theorem witness_DecpubUnpacksPublicationIdentifier :
    2 ^ 29 ≤ (0x20000000 : Word).toNat ∧ discOf (0x1FFFFFFF : Word).toNat ≠ start.cfg.pubDisc.toNat ∧
      (0x1DFFFFFF : Word).toNat < 2 ^ 29 ∧ discOf (0x1DFFFFFF : Word).toNat = start.cfg.pubDisc.toNat := by decide

theorem witness_EncsvcPacksServiceIdentifier :
    ((7 : Word).toNat ≤ 7 ∧ (255 : Word).toNat ≤ 255 ∧ (0 : Word).toNat ≤ 255) ∧ 7 < (8 : Word).toNat ∧ 255 < (256 : Word).toNat := by
  decide

theorem witness_DecsvcUnpacksServiceIdentifier :
    (2 ^ 29 ≤ (0x20DA0000 : Word).toNat ∧ discOf (0x19007114 : Word).toNat ≠ start.cfg.svcDisc.toNat ∧
        start.cfg.strictMarker = true ∧ markerOf (0x18000A01 : Word).toNat ≠ start.cfg.svcMarker.toNat) ∧
      ((0x1CDAFFFF : Word).toNat < 2 ^ 29 ∧ discOf (0x1CDAFFFF : Word).toNat = start.cfg.svcDisc.toNat ∧
        markerOf (0x1CDAFFFF : Word).toNat = start.cfg.svcMarker.toNat) ∧
      lax.strictMarker = false ∧ discOf (0x18000A01 : Word).toNat = lax.svcDisc.toNat := by decide

/-- The premises of the four laws with premises, the round trips at the ends of the ranges. -/
theorem witness_CodecRoundTrips :
    ((7 : Word).toNat ≤ 7 ∧ (65535 : Word).toNat ≤ 65535 ∧ (255 : Word).toNat ≤ 255) ∧
      exec (.encpub 0xFFFFFFFF 65536 0) start = .next { start with out := errorAnswer .invalidField } ∧
      exec (.decpub 0x1DFFFFFF) start = .next { start with out := .response ⟨.success, 7, 0xFFFF, 0xFF, 0⟩ } ∧
      start.cfg.strictMarker = true ∧
      exec (.decsvc 0x1CDAFFFF) start = .next { start with out := .response ⟨.success, 7, 0xFF, 0xFF, 0⟩ } := by
  refine ⟨by decide, ?_, ?_, rfl, ?_⟩ <;> rfl

theorem witness_ReservedCommandsAnswerInvalidField :
    (0 : Word).toNat % 16 = 0 ∧ 9 ≤ (9 : Word).toNat % 16 ∧ 9 ≤ (15 : Word).toNat % 16 ∧ 16 ≤ (16 : Word).toNat ∧
      16 ≤ (0xFFFFFFF1 : Word).toNat := by decide

theorem witness_DecodeOfEncodeIsIdentity :
    cfg.wf ∧ (Instr.idSvc (head 8) [0, 0, 0, 0, 0, 0, 0, 0]).wf cfg = true ∧
      (Instr.pciReserved (head 1) 15 15 [0, 0, 0, 0, 0, 0, 0]).wf cfg = true := by decide

theorem witness_DecodedInstructionIsWellFormed :
    decode cfg (.command ⟨0xFFFFFFFF, 0, 0, 0, 0⟩) = .ok (.reservedCwHigh 0xFFFFFFFF) := by rfl

theorem witness_ByteOrderIsFixed :
    (head 8).wf cfg = true ∧ (0x10 : Byte).toNat / 16 = 1 ∧ (0x1F : Byte).toNat / 16 = 1 := by decide

theorem witness_StepRunsDecodedInstruction :
    fetchInput { tight with sched := [.command], cmdPort := [⟨8, 0, 0, 0, 0⟩] } .command = some (.command ⟨8, 0, 0, 0, 0⟩) ∧
      decode tight.cfg (.command ⟨8, 0, 0, 0, 0⟩) = .ok .status := ⟨rfl, rfl⟩

theorem witness_HeldStepWithholdsEveryWrite :
    exec .poptx tight = .next { tight with out := .noStep } ∧
      step { tight with sched := [.poptx] } = .next { tight with sched := [], out := .noStep } := ⟨rfl, rfl⟩

theorem witness_ClassifierReadsOnlyLenBytes : ([0x30, 1, 2, 9] : List Byte).take 3 = ([0x30, 1, 2, 7] : List Byte).take 3 := by
  decide

theorem witness_ClassifyChecksLengthThenIdentifier :
    8 < (9 : Word).toNat ∧ (8 : Word).toNat ≤ 8 ∧ (¬ isPublication cfg 0x9ADA0A01 ∧ ¬ isService cfg 0x9ADA0A01) ∧
      (0 : Word).toNat = 0 ∧ isService cfg 0x98DA0A01 := by
  unfold isPublication isService extended; decide

/-- One can_id for each family, a first data byte for each sub-type, and the lengths on both sides of each minimum. -/
theorem witness_ClassifyAnswersVariant :
    isPublication cfg 0x99007114 ∧ isService cfg 0x98DA0A01 ∧ (8 : Word).toNat ≤ 8 ∧ 1 ≤ (1 : Word).toNat ∧
      ((0x02 : Word).toNat / 16 % 16 = 0 ∧ (2 : Word).toNat < 1 + (0x02 : Word).toNat % 16 ∧
        1 + (0x02 : Word).toNat % 16 ≤ (3 : Word).toNat) ∧
      ((0x10 : Word).toNat / 16 % 16 = 1 ∧ (1 : Word).toNat < 2 ∧ 2 ≤ (2 : Word).toNat) ∧
      (0x2F : Word).toNat / 16 % 16 = 2 ∧
      ((0x30 : Word).toNat / 16 % 16 = 3 ∧ (2 : Word).toNat < 3 ∧ 3 ≤ (3 : Word).toNat) ∧
      4 ≤ (0x40 : Word).toNat / 16 % 16 := by
  unfold isPublication isService extended; decide

theorem witness_ClassifyErrorIsReportedByRxframe :
    (255 : Word).toNat < 256 ∧ ErrKind.invalidField ≠ .success ∧ belowDepth tight.cfg.qErr tight.errq.length ∧
      exec (.classify 0x98DA0A01 255 0 0) tight = .next { tight with out := errorAnswer .invalidField } :=
  ⟨by decide, by decide, room rfl, rfl⟩

/-- A truncated Service frame, with the nibble of byte 0, and a frame of neither family, without. -/
theorem witness_ErrorReportCarriesNibble :
    (classifyFrame cfg 0x98DA0A01 1 [0x10, 0, 0, 0, 0, 0, 0, 0] = .error .truncatedFrame ∧ isService cfg 0x98DA0A01) ∧
      (classifyFrame cfg 0x9ADA0A01 8 [0x10, 0, 0, 0, 0, 0, 0, 0] = .error .malformedIdentifier ∧ ¬ isService cfg 0x9ADA0A01) ∧
      classifyFrame cfg 0x98DA0A01 0 [0, 0, 0, 0, 0, 0, 0, 0] = .error .truncatedFrame ∧
      classifyFrame cfg 0x98DA0A01 9 [0, 0, 0, 0, 0, 0, 0, 0] = .error .invalidField := by
  refine ⟨⟨rfl, ?_⟩, ⟨rfl, ?_⟩, rfl, rfl⟩ <;> (unfold isService extended; decide)

theorem witness_ArrivalRowsAgreeWithRxframe :
    cfg.wf ∧ (Instr.pciFf (head 8) 0xFFF [1, 2, 3, 4, 5, 6]).wf cfg = true ∧
      rowFrame cfg (.pciFf (head 8) 0xFFF [1, 2, 3, 4, 5, 6]) = some ⟨0x98DA010A, 8, [0x1F, 0xFF, 1, 2, 3, 4, 5, 6]⟩ := by decide

theorem witness_PublicationFrameDelivered :
    (8 : Byte).toNat ≤ 8 ∧ ([1, 2, 3, 4, 5, 6, 7, 8] : List Byte).length = 8 ∧ belowDepth tight.cfg.qMsg tight.msgq.length :=
  ⟨by decide, rfl, room rfl⟩

theorem witness_ReservedDiscriminatorReported : (8 : Byte).toNat ≤ 8 ∧ belowDepth tight.cfg.qErr tight.errq.length :=
  ⟨by decide, room rfl⟩

theorem witness_SingleFrameDelivered :
    ([1, 2, 3, 4, 5, 6, 7] : List Byte).length = 7 ∧ 1 + (7 : BitVec 4).toNat ≤ (head 8).len.toNat ∧ (head 8).len.toNat ≤ 8 ∧
      belowDepth tight.cfg.qMsg tight.msgq.length :=
  ⟨rfl, by decide, by decide, room rfl⟩

theorem witness_FirstFrameStartsTransfer :
    ([1, 2, 3, 4, 5, 6] : List Byte).length = 6 ∧ 2 ≤ (head 2).len.toNat ∧ (head 8).len.toNat ≤ 8 ∧
      belowDepth tight.cfg.qTx tight.txq.length :=
  ⟨rfl, by decide, by decide, room rfl⟩

/-- The transfer of 20 bytes goes on (6 + 7 < 20); one of 13 bytes ends (6 + 7 = 13). -/
theorem witness_ExpectedConsecutiveFrameAppends :
    ([1, 2, 3, 4, 5, 6, 7] : List Byte).length = 7 ∧ 1 ≤ (head 8).len.toNat ∧ (head 8).len.toNat ≤ 8 ∧
      receiving.ra.active = true ∧ (1 : BitVec 4).toNat = (receiving.ra.lastIdx.toNat + 1) % 16 ∧
      receiving.ra.count.toNat ≤ receiving.ra.size.toNat ∧
      receiving.ra.count.toNat + min ((head 8).len.toNat - 1) (receiving.ra.size.toNat - receiving.ra.count.toNat) <
        receiving.ra.size.toNat ∧
      receiving.ra.count.toNat + min ((head 8).len.toNat - 1) ((13 : BitVec 12).toNat - receiving.ra.count.toNat) =
        (13 : BitVec 12).toNat ∧
      Memory.writtenBelow receiving.ra.buf receiving.ra.count.toNat ∧
      belowDepth receiving.cfg.qMsg receiving.msgq.length := by
  refine ⟨rfl, by decide, by decide, rfl, by decide, by decide, by decide, by decide, ?_, room rfl⟩
  unfold Memory.writtenBelow; decide

theorem witness_UnexpectedConsecutiveFrameDropped :
    (1 ≤ (head 1).len.toNat ∧ (head 8).len.toNat ≤ 8) ∧ tight.ra.active = false ∧ receiving.ra.active = true ∧
      (2 : BitVec 4).toNat ≠ (receiving.ra.lastIdx.toNat + 1) % 16 := by decide

theorem witness_FlowControlFrameStoredWhileWaiting : 3 ≤ (head 3).len.toNat ∧ (head 8).len.toNat ≤ 8 := by decide

theorem witness_ReservedSubtypeReported :
    1 ≤ (head 1).len.toNat ∧ (head 8).len.toNat ≤ 8 ∧ belowDepth tight.cfg.qErr tight.errq.length :=
  ⟨by decide, by decide, room rfl⟩

theorem witness_ShortServiceFramesReported :
    belowDepth tight.cfg.qErr tight.errq.length ∧ (head 0).len.toNat = 0 ∧
      (1 ≤ (head 7).len.toNat ∧ (head 7).len.toNat < 1 + (7 : BitVec 4).toNat ∧ (head 8).len.toNat < 1 + (8 : BitVec 4).toNat) ∧
      (head 1).len.toNat = 1 ∧ (head 2).len.toNat = 2 :=
  ⟨room rfl, by decide, by decide, by decide, by decide⟩

theorem witness_EveryArrivalIsTaken :
    (Instr.idSvc (head 0) []).isArrival = true ∧ tight.Inv ∧ belowDepth tight.cfg.qTx tight.txq.length ∧
      belowDepth tight.cfg.qMsg tight.msgq.length ∧ belowDepth tight.cfg.qErr tight.errq.length :=
  ⟨rfl, tight_inv, tight_room⟩

theorem witness_ServiceFrameActsBySubtype :
    1 ≤ (head 1).len.toNat ∧ (head 8).len.toNat ≤ 8 ∧ ([1, 2, 3, 4, 5] : List Byte).length = 5 := by decide

/-- A First frame changes the context, and a completed transfer appends one message. -/
theorem witness_OnlySegmentsChangeReassembly :
    after (.rxframe ⟨0x98DA010A, 8, [0x10, 0x08, 1, 2, 3, 4, 5, 6]⟩) tight (fun t => t.ra != tight.ra) = true ∧
      after (.rxframe ⟨0x98DA010A, 3, [0x21, 7, 8, 0, 0, 0, 0, 0]⟩) { receiving with ra := { receiving.ra with size := 8 } }
        (fun t => t.ra != { receiving.ra with size := 8 } &&
          t.msgq == [⟨.service, 6, 0x0001, 0x0A, 8, [1, 2, 3, 4, 5, 6, 7, 8]⟩]) = true ∧
      receiving.ra.count.toNat ≤ receiving.ra.size.toNat := by decide

/-- One frame for each queue a frame can need, all queues full. -/
theorem witness_FullQueueStallsArrival :
    classifyFrame full.cfg 0x98DA010A 0 [] = .error .truncatedFrame ∧
      classifyFrame full.cfg 0x99007114 1 [2] = .ok (.pubSingle 6 0x71 0x14 [2]) ∧
      classifyFrame full.cfg 0x98DA010A 2 [1, 0x84] = .ok (.svcSingle 6 0x01 0x0A [0x84]) ∧
      classifyFrame full.cfg 0x98DA010A 2 [0x10, 0x14] = .ok (.svcFirst 6 0x01 0x0A 0x14 []) ∧
      (classifyFrame full.cfg 0x98DA010A 1 [0x21] = .ok (.svcConsecutive 6 0x01 0x0A 1 []) ∧
        ({ full with ra := { full.ra with active := true } } : State).ra.active = true ∧
        (1 : BitVec 4).toNat = (full.ra.lastIdx.toNat + 1) % 16 ∧ full.ra.size.toNat ≤ full.ra.count.toNat + 0) ∧
      ¬ belowDepth full.cfg.qTx full.txq.length ∧ ¬ belowDepth full.cfg.qMsg full.msgq.length ∧
      ¬ belowDepth full.cfg.qErr full.errq.length :=
  ⟨rfl, rfl, rfl, rfl, ⟨rfl, rfl, by decide, by decide⟩, full_room⟩

theorem witness_WrbufWritesOneByte :
    (tight.tx.state = .idle ∧ (4094 : Word).toNat ≤ 4094 ∧ (255 : Word).toNat ≤ 255) ∧
      (4094 < (4095 : Word).toNat ∧ 255 < (256 : Word).toNat) ∧ (sending .waitFc 0).tx.state ≠ .idle := by decide

/-- An operand just out of range, legal operands at their ends with TXQ full, and a send in progress. -/
theorem witness_SendRejectsBadOperands :
    (tight.tx.state = .idle ∧ 7 < (8 : Word).toNat ∧ 255 < (256 : Word).toNat ∧ 4095 < (4096 : Word).toNat) ∧
      (full.tx.state = .idle ∧ (7 : Word).toNat ≤ 7 ∧ (255 : Word).toNat ≤ 255 ∧ (4095 : Word).toNat ≤ 4095 ∧
        ¬ belowDepth full.cfg.qTx full.txq.length) ∧
      (sending .sendCf 0).tx.state ≠ .idle :=
  ⟨by decide, ⟨rfl, by decide, by decide, by decide, full_room.1⟩, by decide⟩

theorem witness_ShortSendPushesSingleFrame :
    (loaded [1, 2, 3, 4, 5, 6, 7]).tx.state = .idle ∧ (7 : Word).toNat ≤ 7 ∧ (255 : Word).toNat ≤ 255 ∧
      Memory.writtenBelow (loaded [1, 2, 3, 4, 5, 6, 7]).tx.buf (7 : Word).toNat ∧
      belowDepth (loaded [1, 2, 3, 4, 5, 6, 7]).cfg.qTx (loaded [1, 2, 3, 4, 5, 6, 7]).txq.length := by
  refine ⟨rfl, by decide, by decide, ?_, room rfl⟩
  unfold Memory.writtenBelow; decide

theorem witness_LongSendPushesFirstFrame :
    (loaded [1, 2, 3, 4, 5, 6, 7, 8]).tx.state = .idle ∧ 8 ≤ (8 : Word).toNat ∧ (4095 : Word).toNat ≤ 4095 ∧
      Memory.writtenBelow (loaded [1, 2, 3, 4, 5, 6, 7, 8]).tx.buf (8 : Word).toNat ∧
      belowDepth (loaded [1, 2, 3, 4, 5, 6, 7, 8]).cfg.qTx (loaded [1, 2, 3, 4, 5, 6, 7, 8]).txq.length := by
  refine ⟨rfl, by decide, by decide, ?_, room rfl⟩
  unfold Memory.writtenBelow; decide

theorem witness_SendOfUnwrittenByteFaults :
    (loaded [1]).tx.state = .idle ∧ (2 : Word).toNat ≤ 4095 ∧
      belowDepth (loaded [1]).cfg.qTx (loaded [1]).txq.length ∧ ¬ Memory.writtenBelow (loaded [1]).tx.buf (2 : Word).toNat := by
  refine ⟨rfl, by decide, room rfl, ?_⟩
  unfold Memory.writtenBelow; decide

/-- A tuple of each flag in WAIT_FC, WAIT_FC without a tuple, and a tuple outside WAIT_FC (REWAIT, R194). -/
theorem witness_StoredTupleIsConsumedByFlag :
    ((sending .waitFc 0).tx.state = .waitFc ∧ (⟨true, 0, 2, 5⟩ : FlowControl).valid = true ∧
      (⟨true, 0, 2, 5⟩ : FlowControl).flag = 0 ∧ (⟨true, 1, 2, 5⟩ : FlowControl).flag = 1 ∧
      (⟨true, 2, 2, 5⟩ : FlowControl).flag = 2 ∧ 3 ≤ (3 : BitVec 4).toNat ∧ (⟨true, 3, 2, 5⟩ : FlowControl).flag = 3) ∧
      (sending .waitFc 0).fc.valid = false ∧
      ({ sending .waitPause 1 with fc := ⟨true, 0, 2, 5⟩ } : State).tx.state ≠ .waitFc := by decide

/-- The last frame of a send, and, with TX_LEN = 14 of the same buffer type, one that is not the last. -/
theorem witness_ConsecutiveFrameIsSent :
    (sending .sendCf 0).tx.state = .sendCf ∧ (sending .sendCf 0).tx.pos.toNat < (sending .sendCf 0).tx.len.toNat ∧
      Memory.writtenBelow (sending .sendCf 0).tx.buf (sending .sendCf 0).tx.len.toNat ∧
      belowDepth (sending .sendCf 0).cfg.qTx (sending .sendCf 0).txq.length ∧
      Memory.writtenBelow (bytes [0, 1, 2, 3, 4, 5, 6, 7, 8, 9, 10, 11, 12, 13]) 14 := by
  refine ⟨rfl, by decide, ?_, room rfl, ?_⟩ <;> (unfold Memory.writtenBelow; decide)

theorem witness_ExpiredTimerTransitions :
    (sending .sepDelay 0).tx.timer = 0 ∧ (sending .waitPause 0).tx.timer = 0 ∧ cfg.waitPolicy = .rewait ∧
      ({ cfg with waitPolicy := .resume } : Config.Params).waitPolicy = .resume ∧ (sending .waitFc 0).fc.valid = false := by decide

theorem witness_TxstepEnabledExactly :
    (sending .sendCf 0).Inv ∧ belowDepth (sending .sendCf 0).cfg.qTx (sending .sendCf 0).txq.length ∧
      (sending .waitFc 0).Inv ∧ (sending .sepDelay 0).Inv ∧ (sending .waitPause 0).Inv ∧ tight.Inv ∧ tight.tx.state = .idle :=
  ⟨sending_inv _, room rfl, sending_inv _, sending_inv _, sending_inv _, tight_inv, rfl⟩

/-- Each timed state, with the ticks on both sides of its expiry. -/
theorem witness_TimerExpiresAfterExactlyItsTicks :
    ((sending .waitFc 5000).tx.state = .waitFc ∧ (sending .waitFc 5000).fc.valid = false ∧
        4999 < (sending .waitFc 5000).tx.timer.toNat ∧ (sending .waitFc 5000).tx.timer.toNat ≤ 5000) ∧
      ((sending .sepDelay 50).tx.state = .sepDelay ∧ 49 < (sending .sepDelay 50).tx.timer.toNat ∧
        (sending .sepDelay 50).tx.timer.toNat ≤ 50) ∧
      (sending .waitPause 3).tx.state = .waitPause ∧ 2 < (sending .waitPause 3).tx.timer.toNat ∧
        (sending .waitPause 3).tx.timer.toNat ≤ 3 := by decide

theorem witness_PopsReturnOldestEntry :
    full.txq = ⟨0, 0, []⟩ :: [] ∧ full.msgq = ⟨.service, 0, 0, 0, 0, []⟩ :: [] ∧ full.errq = ⟨.truncatedFrame, 0, 0, 0⟩ :: [] ∧
      tight.txq = [] ∧ tight.msgq = [] ∧ tight.errq = [] := by decide

theorem witness_ResetLeavesBlockIdle :
    exec .reset (sending .waitFc 1) = .next start ∧ 1 ≤ (head 1).len.toNat ∧ (head 8).len.toNat ≤ 8 ∧
      (4094 : Word).toNat ≤ 4094 ∧ (255 : Word).toNat ≤ 255 ∧ (7 : Word).toNat ≤ 7 := ⟨rfl, by decide⟩

/-- Legal parameters that are not the defaults. -/
theorem witness_InvariantHoldsAtReset :
    Config.Params.wf { cfg with pubDisc := 0b11, waitPolicy := .resume, waitInterval := 1, qTx := .bounded 0 } := by decide

theorem witness_StepKeepsInvariant : tight.Inv ∧ step tight = .next tight := ⟨tight_inv, rfl⟩

theorem witness_StepKeepsParameters : step tight = .next tight := rfl

/-- An instruction of each kind: the reassembly context kept by a send, the TX engine kept by an arriving frame. -/
theorem witness_EnginesWriteTheirOwnRegisters :
    (after .txstep (sending .sendCf 0) (fun _ => true) = true ∧ Instr.txstep.isArrival = false ∧ Instr.txstep ≠ .reset) ∧
      after (.rxframe ⟨0x98DA010A, 8, [0x10, 8, 1, 2, 3, 4, 5, 6]⟩) tight (fun _ => true) = true ∧
      (Instr.rxframe ⟨0x98DA010A, 8, [0x10, 8, 1, 2, 3, 4, 5, 6]⟩).isArrival = true := by decide

/-- FC_VALID set by a frame, and cleared by a transition; FC_FLAG changed by a frame. -/
theorem witness_FlowRegisterHandoff :
    after (.pciFc (head 3) 2 0 0 []) (sending .waitFc 0) (fun t => t.fc.valid && t.fc.flag != 0) = true ∧
      (sending .waitFc 0).fc.valid = false ∧
      after .txstep { sending .waitFc 0 with fc := ⟨true, 0, 0, 0⟩ } (fun t => !t.fc.valid) = true := by decide

theorem witness_TxBufferWrittenOnlyWhileIdle : after (.wrbuf 0 1) tight (fun t => t.tx.buf != tight.tx.buf) = true := by decide

theorem witness_OnlyTransitionsEndSend :
    (sending .waitFc 0).tx.state ≠ .idle ∧ after .txstep (sending .waitFc 0) (fun t => t.tx.state == .idle) = true := by decide

theorem witness_QueuesAreFirstInFirstOut : exec .poptx full = .next { full with txq := [], out := .frame ⟨0, 0, []⟩ } := rfl

/-- A command error that writes nothing, and a SEND that records one. -/
theorem witness_CommandErrorsArePrecise :
    exec (.encpub 8 0 0) tight = .next { tight with out := errorAnswer .invalidField } ∧
      exec (.send 8 0 0 0) tight =
        .next { tight with tx := { tight.tx with done := true, result := .invalidField }, out := errorAnswer .invalidField } :=
  ⟨rfl, rfl⟩

theorem witness_OnlyUnwrittenSendStops : tight.Inv ∧ exec (.send 0 0 0 1) tight = .fault .txByteUnwritten := ⟨tight_inv, rfl⟩

/-- The longest payload, and the lengths on both sides of the segmented path. -/
theorem witness_SegmentsReassembleToPayload :
    tight.cfg.wf ∧ (List.replicate 4095 (0 : Byte)).length ≤ 4095 ∧ belowDepth tight.cfg.qTx tight.txq.length ∧
      belowDepth tight.cfg.qMsg tight.msgq.length ∧ (List.replicate 7 (0 : Byte)).length ≤ 7 ∧
      8 ≤ (List.replicate 8 (0 : Byte)).length :=
  ⟨by decide, by rw [List.length_replicate], room rfl, room rfl, by decide, by decide⟩

/-- The shortest segmented send, its two frames just fitting a TXQ of depth 2. -/
theorem witness_SendPushesAllSegments :
    (loaded [1, 2, 3, 4, 5, 6, 7, 8]).tx.state = .idle ∧ depthAdmits (.bounded 1) (0 + (1 + consecutiveCount (8 : Word).toNat)) ∧
      depthAdmits (loaded [1, 2, 3, 4, 5, 6, 7, 8]).cfg.qTx (0 + (1 + consecutiveCount (8 : Word).toNat)) ∧
      (7 : Word).toNat ≤ 7 ∧ (255 : Word).toNat ≤ 255 ∧ 8 ≤ (8 : Word).toNat ∧ (4095 : Word).toNat ≤ 4095 ∧
      ([1, 2, 3, 4, 5, 6, 7, 8] : List Byte).length = (8 : Word).toNat ∧
      (∀ i, i < (8 : Word).toNat →
        Memory.read (loaded [1, 2, 3, 4, 5, 6, 7, 8]).tx.buf i = ([1, 2, 3, 4, 5, 6, 7, 8] : List Byte)[i]?) ∧
      3 ≤ (head 3).len.toNat ∧ (head 8).len.toNat ≤ 8 := by
  refine ⟨rfl, ?_, trivial, by decide⟩
  unfold depthAdmits; decide

end Sys2Proof.Tests
end

section
/-! PROOFS. The scope (00_scope.md): what every step does to the block, the parameters it keeps (R7), and the invariant at reset under
every legal parameter setting (R6). -/

namespace Sys2Proof.Machine

/-! ### One step -/

/-- Taking an input writes no field but the two input ports. -/
theorem State.takeInput_eq (s : State) (turn : Turn) : ∃ c r, s.takeInput turn = { s with cmdPort := c, rxPort := r } := by
  cases turn <;> exact ⟨_, _, rfl⟩

/-- Releasing a port after a step writes no field but the two input ports. -/
theorem releasePort_eq (turn : Turn) (s : State) : ∃ c r, releasePort turn s = { s with cmdPort := c, rxPort := r } := by
  unfold releasePort
  split
  · exact ⟨_, _, rfl⟩
  · exact s.takeInput_eq turn

@[simp] theorem releasePort_cfg (turn : Turn) (s : State) : (releasePort turn s).cfg = s.cfg := by
  obtain ⟨c, r, h⟩ := releasePort_eq turn s
  rw [h]

/-- Everything a step can do: no turn is left; the agent's port carries nothing; or the decoded input runs and leaves its port
(R59, R60; log 2). -/
theorem step_cases {s t : State} (h : step s = .next t) :
    (s.sched = [] ∧ t = s.withOut .nothing) ∨
      ∃ turn rest, s.sched = turn :: rest ∧
        ((fetchInput s turn = none ∧ t = { s with sched := rest }.withOut .nothing) ∨
          ∃ raw i u, fetchInput s turn = some raw ∧ decode s.cfg raw = .ok i ∧ exec i { s with sched := rest } = .next u ∧
            t = releasePort turn u) := by
  unfold step at h
  split at h
  case h_1 hs =>
    cases h
    exact .inl ⟨hs, rfl⟩
  case h_2 turn rest hs =>
    refine .inr ⟨turn, rest, hs, ?_⟩
    split at h
    case h_1 hf =>
      cases h
      exact .inl ⟨hf, rfl⟩
    case h_2 raw hf =>
      split at h
      case h_1 => cases h
      case h_2 i hd =>
        split at h
        case h_1 u he =>
          cases h
          exact .inr ⟨raw, i, u, hf, hd, he, rfl⟩
        case h_2 => cases h
        case h_3 => cases h

/-! ### The parameters -/

/-- No instruction writes a parameter (R7). -/
theorem Effect.cfg_eq {s t : State} {i : Instr} (h : Effect s i t) : t.cfg = s.cfg := by
  cases h <;> rfl

/-- Settles O51: of a step's cases only the one that runs an instruction could write a parameter, and none of its effects does. -/
theorem stepKeepsParameters : Obligations.StepKeepsParameters := by
  intro s t h
  obtain ⟨-, rfl⟩ | ⟨turn, rest, -, ⟨-, rfl⟩ | ⟨raw, i, u, -, -, he, rfl⟩⟩ := step_cases h
  · rfl
  · rfl
  · rw [releasePort_cfg, (exec_effect he).cfg_eq]

/-! ### The state after reset -/

/-- The parameters after reset are legal, whatever the OPEN ones are (R6; log 1). -/
theorem params_wf : Config.params.wf := by
  refine ⟨by decide, fun h => ?_⟩
  have hlt := Config.waitIntervalLessOne.isLt
  have h0 : (Config.waitIntervalLessOne.val + 1) % 2 ^ 32 = 0 := congrArg BitVec.toNat h
  omega

/-- The reassembly context after reset is idle and empty (R25, R27, R240). -/
theorem Reassembly.reset_ok : Reassembly.reset.Ok where
  buf := Memory.wf_nil
  count := Nat.le_refl _
  written := fun i h => absurd h (Nat.not_lt_zero i)

/-- The TX engine after reset is idle, so that nothing is asked of a send in progress (R194, R240). -/
theorem TxEngine.reset_ok (p : Config.Params) : TxEngine.reset.Ok p := by
  constructor <;> simp [TxEngine.reset, Memory.wf_nil]

/-- Every depth admits an empty queue (R34). -/
theorem depthAdmits_zero (d : Config.Depth) : depthAdmits d 0 := by
  cases d with
  | unbounded => trivial
  | bounded k => exact Nat.zero_le _

/-- The state after reset meets the invariant under every legal setting. -/
theorem State.reset_inv {p : Config.Params} (hp : p.wf) : State.Inv { State.reset with cfg := p } where
  cfg := hp
  ra := Reassembly.reset_ok
  tx := TxEngine.reset_ok p
  flow := fun h => by cases h
  txq := List.forall_mem_nil _
  msgq := List.forall_mem_nil _
  errq := List.forall_mem_nil _
  txqDepth := depthAdmits_zero _
  msgqDepth := depthAdmits_zero _
  errqDepth := depthAdmits_zero _

/-- Settles O49: the parameters after reset are one legal setting among all. -/
theorem invariantHoldsAtReset : Obligations.InvariantHoldsAtReset :=
  ⟨State.reset_inv params_wf, fun _ => State.reset_inv⟩

end Sys2Proof.Machine
end

section
/-! PROOFS. The state (10_state.md): which unit writes which registers (R24, R28, R29), and the invariant that every step keeps (R25,
R27, R32, R34, R194, R195, R249). -/

namespace Sys2Proof.Machine

variable {s t : State} {i : Instr}

/-! ### The reassembly context and the TX engine -/

/-- An instruction that is neither the arrival of a frame nor RESET leaves the reassembly context alone (R24). -/
theorem Effect.ra_eq (h : Effect s i t) (ha : i.isArrival = false) (hr : i ≠ .reset) : t.ra = s.ra := by
  cases h with
  | first hi | append hi | complete hi => exact absurd hi (by simp [ha])
  | reset => exact absurd rfl hr
  | _ => rfl

/-- A row in which a frame arrives is no transition of the TX engine. -/
theorem not_isTransition_of_isArrival (h : i.isArrival = true) : i.isTransition = false := by
  cases i <;> simp [Instr.isArrival, Instr.isTransition] at h ⊢

/-- The arrival of a frame leaves the TX engine alone: what writes it is a command, a transition, a tick or RESET (R30, R223). -/
theorem Effect.tx_eq (h : Effect s i t) (ha : i.isArrival = true) : t.tx = s.tx := by
  cases h with
  | takeContinue hi | takeWait hi | takeAbort hi => simp [not_isTransition_of_isArrival ha] at hi
  | wrbuf | sendReject | sendSingle | sendFirst | timeout | consecutive | endDelay | endPauseRewait | endPauseResume | tickDown
  | reset => cases ha
  | _ => rfl

/-- Settles O52: by what the effects of an instruction write. -/
theorem enginesWriteTheirOwnRegisters : Obligations.EnginesWriteTheirOwnRegisters :=
  fun _ _ _ h => ⟨(exec_effect h).ra_eq, (exec_effect h).tx_eq⟩

/-! ### The FC register -/

/-- A stored tuple can be consumed only in WAIT_FC (R180). -/
theorem State.waitFc_of_flowReady (h : s.flowReady = true) : s.tx.state = .waitFc := by
  rw [State.flowReady, Bool.and_eq_true, beq_iff_eq] at h
  exact h.1

/-- Everything an instruction can do to the FC register: nothing; an arriving frame stores a tuple while one is accepted (R148); a
transition in WAIT_FC consumes it (R180); RESET clears it (R240). -/
theorem Effect.fc_cases (h : Effect s i t) :
    t.fc = s.fc ∨ (i.isArrival = true ∧ s.acceptsFlow = true ∧ t.fc.valid = true) ∨
      (i.isTransition = true ∧ s.tx.state = .waitFc ∧ t.fc = s.fc.consume) ∨ i = .reset ∧ t.fc.valid = false := by
  cases h with
  | storeFlow hi ha => exact .inr (.inl ⟨hi, ha, rfl⟩)
  | takeContinue hi hf | takeWait hi hf | takeAbort hi hf =>
    exact .inr (.inr (.inl ⟨hi, State.waitFc_of_flowReady hf, rfl⟩))
  | reset => exact .inr (.inr (.inr ⟨rfl, rfl⟩))
  | _ => exact .inl rfl

/-- Settles O53: by the four things an instruction can do to the FC register. -/
theorem flowRegisterHandoff : Obligations.FlowRegisterHandoff := by
  intro i s t h
  obtain hfc | ⟨hi, ha, hv⟩ | ⟨hi, hs, hfc⟩ | ⟨hi, hv⟩ := (exec_effect h).fc_cases
  · simp +contextual [hfc]
  · simp [hi, ha, hv]
  · simp [hi, hs, hfc, FlowControl.consume]
  · simp [hi, hv]

/-- A tuple is accepted in WAIT_FC, or in WAIT_PAUSE under REWAIT (R148). -/
theorem State.acceptsFlow_iff :
    s.acceptsFlow = true ↔ s.tx.state = .waitFc ∨ s.tx.state = .waitPause ∧ s.cfg.waitPolicy = .rewait := by
  simp [State.acceptsFlow]

/-- A stored tuple stays where one is accepted (R194, R249): a transition out of the accepting states finds or leaves none. -/
theorem Effect.keeps_flow (h : Effect s i t) (hs : s.fc.valid = true → s.acceptsFlow = true) :
    t.fc.valid = true → t.acceptsFlow = true := by
  intro hv
  cases h with
  | sendSingle hst | sendFirst hst | consecutive hst | endDelay hst =>
    have := State.acceptsFlow_iff.mp (hs hv)
    simp [hst] at this
  | endPauseResume hst _ hp =>
    have := State.acceptsFlow_iff.mp (hs hv)
    simp [hst, hp] at this
  | timeout _ hn => exact absurd hv (by simp [hn])
  | takeContinue | takeWait | takeAbort | reset => cases hv
  | endPauseRewait => rfl
  | storeFlow _ ha => exact ha
  | _ => exact hs hv

/-! ### The reassembly context keeps R25 and R27 -/

/-- Every instruction keeps the reassembly context as R25 and R27 say. -/
theorem Effect.keeps_ra (h : Effect s i t) (hs : s.ra.Ok) : t.ra.Ok := by
  cases h with
  | first => exact Reassembly.first_ok hs.buf _ _ _ _ _
  | append _ sn payload => exact Reassembly.append_ok sn payload hs
  | complete _ sn payload =>
    obtain ⟨hbuf, hcount, hwritten⟩ := Reassembly.append_ok sn payload hs
    exact ⟨hbuf, hcount, hwritten⟩
  | reset => exact Reassembly.reset_ok
  | _ => exact hs

/-! ### The TX engine keeps R30, R32, R194 and R195 -/

section TxEngine

variable {p : Config.Params} {e : TxEngine}

/-- WRBUF in IDLE keeps the canonical form of TX_BUF, and an idle engine has no other condition to meet (R50, R170). -/
theorem TxEngine.write_ok {k : Nat} (h : e.Ok p) (hs : e.state = .idle) (hk : k < Config.bufSize) (b : Byte) :
    TxEngine.Ok p { e with buf := Memory.write e.buf k b } := by
  have hw := Memory.wf_write b h.buf hk
  constructor <;> simp [hs, hw, h.result]

/-- The First frame of a send of written bytes starts it as R194 says (R173). -/
theorem TxEngine.startSegments_ok {len : BitVec 12} (h : e.Ok p) (id : Ident) (hl : 8 ≤ len.toNat)
    (hw : e.buf.writtenBelow len.toNat) : (e.startSegments id len).Ok p where
  buf := h.buf
  lenMin := fun _ => hl
  posMin := fun _ => Nat.le_refl 6
  posMax := fun _ => show 6 < len.toNat by omega
  posStep := fun _ => rfl
  idx := fun _ => show (1 : BitVec 4).toNat = (1 + ((6 : BitVec 12).toNat - 6) / 7) % 16 by decide
  written := fun _ => hw
  block := fun _ hb => absurd rfl hb
  timerWaitFc := fun _ => Nat.le_refl 5000
  timerSepDelay := fun hs => by cases hs
  timerWaitPause := fun hs => by cases hs
  result := .inl rfl

/-- A transition within a send that sends no bytes has only the block counter and the timer to answer for (R32, R195). -/
theorem TxEngine.ok_of_progress {state : TxState} {bs st blkCnt : BitVec 8} {timer : BitVec 32} (h : e.Ok p)
    (hs : e.state ≠ .idle) (hblock : state = .sendCf ∨ state = .sepDelay → bs ≠ 0 → blkCnt.toNat < bs.toNat)
    (hwait : state = .waitFc → timer.toNat ≤ Config.fcTimeoutTicks) (hsep : state = .sepDelay → timer.toNat ≤ stTicks st)
    (hpause : state = .waitPause → timer.toNat ≤ p.waitInterval.toNat) :
    TxEngine.Ok p { e with state := state, bs := bs, st := st, blkCnt := blkCnt, timer := timer } where
  buf := h.buf
  lenMin := fun _ => h.lenMin hs
  posMin := fun _ => h.posMin hs
  posMax := fun _ => h.posMax hs
  posStep := fun _ => h.posStep hs
  idx := fun _ => h.idx hs
  written := fun _ => h.written hs
  block := hblock
  timerWaitFc := hwait
  timerSepDelay := hsep
  timerWaitPause := hpause
  result := h.result

/-- Going on to SEND_CF with the block counter below a non-zero block size (R181, R185, R186). -/
theorem TxEngine.toSendCf_ok {bs st blkCnt : BitVec 8} (h : e.Ok p) (hs : e.state ≠ .idle)
    (hblock : bs ≠ 0 → blkCnt.toNat < bs.toNat) :
    TxEngine.Ok p { e with state := .sendCf, bs := bs, st := st, blkCnt := blkCnt } :=
  TxEngine.ok_of_progress h hs (fun _ => hblock) (fun h => by cases h) (fun h => by cases h) fun h => by cases h

/-- A block counter of 0 is below every non-zero block size. -/
theorem zero_toNat_lt {bs : BitVec 8} (h : bs ≠ 0) : (0 : BitVec 8).toNat < bs.toNat :=
  Nat.pos_of_ne_zero fun h0 => h (BitVec.eq_of_toNat_eq h0)

/-- Wait leaves the engine in WAIT_PAUSE with WAIT_INTERVAL loaded (R182, R195). -/
theorem TxEngine.toWaitPause_ok (h : e.Ok p) (hs : e.state ≠ .idle) :
    TxEngine.Ok p { e with state := .waitPause, timer := p.waitInterval } :=
  TxEngine.ok_of_progress h hs (fun h => by simp at h) (fun h => by cases h) (fun h => by cases h) fun _ => Nat.le_refl _

/-- A fresh timeout is FC_TIMEOUT_TICKS (R186, R195). -/
theorem TxEngine.enterWaitFc_ok (h : e.Ok p) (hs : e.state ≠ .idle) : e.enterWaitFc.Ok p :=
  TxEngine.ok_of_progress h hs (fun h => by simp at h) (fun _ => Nat.le_refl 5000) (fun h => by cases h) fun h => by cases h

/-- A tick that counts keeps the timer within what was loaded (R190, R195). -/
theorem TxEngine.tickDown_ok (h : e.Ok p) (hs : e.state ≠ .idle) (ht : e.timer ≠ 0) :
    TxEngine.Ok p { e with timer := e.timer - 1 } := by
  have hle : (e.timer - 1).toNat ≤ e.timer.toNat := by bv_omega
  exact TxEngine.ok_of_progress h hs h.block (fun hs => hle.trans (h.timerWaitFc hs)) (fun hs => hle.trans (h.timerSepDelay hs))
    fun hs => hle.trans (h.timerWaitPause hs)

end TxEngine

/-- Every instruction keeps the TX engine as R30, R32, R194 and R195 say. -/
theorem Effect.keeps_tx (h : Effect s i t) (hs : s.tx.Ok s.cfg) : t.tx.Ok s.cfg := by
  cases h with
  | wrbuf hst ha => exact TxEngine.write_ok hs hst (Nat.lt_succ_of_le ha) _
  | sendReject hst => exact TxEngine.ok_of_idle hs hst rfl (.inr (.inl rfl))
  | sendSingle => exact TxEngine.ok_of_idle hs rfl rfl (.inl rfl)
  | sendFirst _ _ id len payload hl hp =>
    have hw : s.tx.buf.writtenBelow len.toNat := by
      by_contra hn
      rw [← Memory.readBytes_eq_none_iff, hp] at hn
      cases hn
    exact TxEngine.startSegments_ok hs id hl hw
  | takeContinue _ hf => exact TxEngine.toSendCf_ok hs (by simp [State.waitFc_of_flowReady hf]) zero_toNat_lt
  | takeWait _ hf => exact TxEngine.toWaitPause_ok hs (by simp [State.waitFc_of_flowReady hf])
  | takeAbort => exact TxEngine.ok_of_idle hs rfl rfl (.inr (.inr (.inr rfl)))
  | timeout => exact TxEngine.ok_of_idle hs rfl rfl (.inr (.inr (.inl rfl)))
  | consecutive hst => exact TxEngine.afterConsecutive_ok hs hst
  | endDelay hst => exact TxEngine.toSendCf_ok hs (by simp [hst]) (hs.block (.inr hst))
  | endPauseRewait hst => exact TxEngine.enterWaitFc_ok hs (by simp [hst])
  | endPauseResume hst => exact TxEngine.toSendCf_ok hs (by simp [hst]) zero_toNat_lt
  | tickDown hst ht => exact TxEngine.tickDown_ok hs (fun h => by simp [h, TxState.timed] at hst) ht
  | reset => exact TxEngine.reset_ok _
  | _ => exact hs

/-! ### The queues keep R34, R52 and R54 -/

/-- A queue of legal entries within its depth (R34). -/
structure QueueOk {α : Type} (legal : α → Prop) (depth : Config.Depth) (q : List α) : Prop where
  entries : ∀ x ∈ q, legal x
  admits : depthAdmits depth q.length

section Queue

variable {α : Type} {legal : α → Prop} {depth : Config.Depth} {q : List α} {x : α}

/-- A push of a legal entry to a queue with room (R58). -/
theorem QueueOk.push (h : QueueOk legal depth q) (hq : hasRoom depth q.length = true) (hx : legal x) :
    QueueOk legal depth (q ++ [x]) where
  entries := fun y hy => (List.mem_append.mp hy).elim (h.entries y) fun hy => List.mem_singleton.mp hy ▸ hx
  admits := by rw [List.length_append]; exact depthAdmits_push hq

/-- A pop of the oldest entry (R58). -/
theorem QueueOk.pop (h : QueueOk legal depth (x :: q)) : QueueOk legal depth q where
  entries := (List.forall_mem_cons.mp h.entries).2
  admits := depthAdmits_mono h.admits (Nat.le_succ _)

/-- An empty queue (R240). -/
theorem QueueOk.nil : QueueOk legal depth [] := ⟨List.forall_mem_nil _, depthAdmits_zero _⟩

end Queue

/-- Every instruction keeps TXQ: each frame pushed carries at most eight bytes (R52). -/
theorem Effect.keeps_txq (h : Effect s i t) (hs : QueueOk OutboundFrame s.cfg.qTx s.txq) :
    QueueOk OutboundFrame s.cfg.qTx t.txq := by
  cases h with
  | sendSingle _ hq _ payload hl => exact hs.push hq (outFrame_ok _ _ (by rw [List.length_cons]; omega))
  | sendFirst _ hq => exact hs.push hq (outFrame_ok _ _ (by simp [Config.ffData]; omega))
  | first _ hq => exact hs.push hq (outFrame_ok _ _ (by decide))
  | consecutive _ hq payload hp =>
    obtain ⟨hl, -⟩ := (Memory.readBytes_eq_some_iff _ _ _ _).mp hp
    have hle : payload.length ≤ 7 := hl ▸ Nat.min_le_left _ _
    exact hs.push hq (outFrame_ok _ _ (by rw [List.length_cons]; omega))
  | poptx f rest hq => exact (hq ▸ hs).pop
  | reset => exact .nil
  | _ => exact hs

/-- Every instruction keeps MSGQ: the message of a completed transfer has the bytes its length counts (R54, R146). -/
theorem Effect.keeps_msgq (h : Effect s i t) (hs : QueueOk Message.Ok s.cfg.qMsg s.msgq) :
    QueueOk Message.Ok s.cfg.qMsg t.msgq := by
  cases h with
  | deliver _ hq _ hm => exact hs.push hq hm
  | complete _ _ _ bytes _ _ hq hb =>
    obtain ⟨hl, -⟩ := (Memory.readBytes_eq_some_iff _ _ _ _).mp hb
    exact hs.push hq ⟨hl, fun hk => by cases hk⟩
  | popmsg m rest hq => exact (hq ▸ hs).pop
  | reset => exact .nil
  | _ => exact hs

/-- Every instruction keeps ERRQ (R56, R141). -/
theorem Effect.keeps_errq (h : Effect s i t) (hs : QueueOk ErrRecord.Ok s.cfg.qErr s.errq) :
    QueueOk ErrRecord.Ok s.cfg.qErr t.errq := by
  cases h with
  | report _ hq _ he => exact hs.push hq he
  | poperr e rest hq => exact (hq ▸ hs).pop
  | reset => exact .nil
  | _ => exact hs

/-! ### The invariant -/

/-- Every instruction keeps the invariant, unit by unit. -/
theorem Effect.keeps_inv (h : Effect s i t) (hs : s.Inv) : t.Inv := by
  obtain ⟨hcfg, hra, htx, hflow, htxq, hmsgq, herrq, htxqDepth, hmsgqDepth, herrqDepth⟩ := hs
  have txq := h.keeps_txq ⟨htxq, htxqDepth⟩
  have msgq := h.keeps_msgq ⟨hmsgq, hmsgqDepth⟩
  have errq := h.keeps_errq ⟨herrq, herrqDepth⟩
  have tx := h.keeps_tx htx
  rw [← h.cfg_eq] at hcfg txq msgq errq tx
  exact ⟨hcfg, h.keeps_ra hra, tx, h.keeps_flow hflow, txq.entries, msgq.entries, errq.entries, txq.admits, msgq.admits,
    errq.admits⟩

/-- The invariant says nothing of the ports, the turns to come and the output. -/
theorem State.Inv.withPorts (h : s.Inv) (cmdPort : List Command) (rxPort : List RxInput) (sched : List Turn) (out : PortOut) :
    State.Inv { s with cmdPort := cmdPort, rxPort := rxPort, sched := sched, out := out } :=
  ⟨h.cfg, h.ra, h.tx, h.flow, h.txq, h.msgq, h.errq, h.txqDepth, h.msgqDepth, h.errqDepth⟩

/-- Settles O50: a step runs one instruction or none, and beside that writes only the ports, the turns and the output. -/
theorem stepKeepsInvariant : Obligations.StepKeepsInvariant := by
  intro s t hs h
  obtain ⟨-, rfl⟩ | ⟨turn, rest, -, ⟨-, rfl⟩ | ⟨raw, i, u, -, -, he, rfl⟩⟩ := step_cases h
  · exact hs.withPorts _ _ _ _
  · exact hs.withPorts _ _ _ _
  · have hu : u.Inv := (exec_effect he).keeps_inv (hs.withPorts _ _ rest _)
    obtain ⟨c, r, hrel⟩ := releasePort_eq turn u
    rw [hrel]
    exact hu.withPorts c r _ _

end Sys2Proof.Machine
end

section
/-! PROOFS. The memory (20_memory.md): the ports and the held input (R58, R59), the byte order of a frame (R52, R53), the queues (R34, R58,
R61), the error report (R56), and what writes TX_BUF (R66). -/

namespace Sys2Proof.Machine

open Sys2Proof.Spec

variable {s t : State} {i : Instr}

/-! ### The ports and an action without a step -/

/-- Settles O13: the decoded instruction runs, and each agent's turn releases the port it takes its input from. -/
theorem stepRunsDecodedInstruction : Obligations.StepRunsDecodedInstruction := by
  intro s turn rest raw i hs hf hd
  simp only [step, hs, hf, hd]
  cases exec i { s with sched := rest } with
  | next u => cases turn <;> rfl
  | fault f => rfl
  | refused r => rfl

@[simp] theorem releasePort_out (turn : Turn) (s : State) : (releasePort turn s).out = s.out := by
  obtain ⟨c, r, h⟩ := releasePort_eq turn s
  rw [h]

/-- An action without a step leaves its input on the port (R58). -/
theorem releasePort_of_noStep (turn : Turn) (h : s.out = .noStep) : releasePort turn s = s := if_pos h

/-- Only an action without a step answers "no step" (R58). -/
theorem Effect.eq_of_noStep (h : Effect s i t) (ho : t.out = .noStep) : t = s.withOut .noStep := by
  cases h with
  | noStep => rfl
  | _ => cases ho

/-- Settles O14: of the effects only the one without a step has this output, and then the port is not released. -/
theorem heldStepWithholdsEveryWrite : Obligations.HeldStepWithholdsEveryWrite := by
  refine ⟨fun i s t h ho => (exec_effect h).eq_of_noStep ho, fun s t turn rest hs h ho => ?_⟩
  obtain ⟨hnil, -⟩ | ⟨turn', rest', hs', ⟨-, rfl⟩ | ⟨raw, i, u, -, -, he, rfl⟩⟩ := step_cases h
  · simp [hnil] at hs
  · cases ho
  · obtain ⟨rfl, rfl⟩ := List.cons.inj (hs'.symm.trans hs)
    rw [releasePort_out] at ho
    rw [releasePort_of_noStep _ ho]
    exact (exec_effect he).eq_of_noStep ho

/-! ### The byte order of a frame -/

/-- A Service frame whose byte 0 has the sub-type 1 decodes to a First frame (R74, R75). -/
theorem decodeService_first {p : Config.Params} {h : ServiceHead} {b0 b1 b2 : Byte} {rest : List Byte}
    (hm : markerOk p h.marker = true) (h0 : (hiNibble b0).toNat = 1) (hl : rest.length = 5) :
    decodeService p h (b0 :: b1 :: b2 :: rest) = .ok (.pciFf h (loNibble b0 ++ b1) (b2 :: rest)) := by
  simp [decodeService, hm, h0, hl]

/-- The length of a First frame as a number, its most significant bits in byte 0 (R75). -/
theorem ffDl_toNat (b0 b1 : Byte) : (loNibble b0 ++ b1 : BitVec 12).toNat = b0.toNat % 16 * 256 + b1.toNat := by
  have h : (loNibble b0 ++ b1 : BitVec 12).toNat = (loNibble b0 ++ b1).toNat := rfl
  rw [h, toNat_append, loNibble_toNat, show 2 ^ 8 = 256 from rfl]

/-- Settles O11: by the numbers of the can_id word and of the length that the decoder puts together. -/
theorem byteOrderIsFixed : Obligations.ByteOrderIsFixed := by
  refine fun p => ⟨fun b0 b1 b2 b3 _ _ _ _ _ _ _ _ _ _ _ _ => ⟨_, rfl, wordOfBytes_toNat b0 b1 b2 b3⟩, ?_⟩
  intro h d0 d1 d2 d3 d4 d5 d6 d7 hw h0
  have hd := decodeService_first (b1 := d1) (b2 := d2) (rest := [d3, d4, d5, d6, d7]) (ServiceHead.markerOk_of_wf hw)
    ((hiNibble_toNat d0).trans h0) rfl
  exact ⟨_, hd, ffDl_toNat d0 d1⟩

/-! ### The queues -/

theorem exec_poptx_cons {f : FrameRecord} {rest : List FrameRecord} (h : s.txq = f :: rest) :
    exec .poptx s = .next { s with txq := rest, out := .frame f } := by
  simp only [exec, execPoptx, h]
  rfl

theorem exec_poptx_nil (h : s.txq = []) : exec .poptx s = noStep s := by
  simp only [exec, execPoptx, h]

theorem exec_popmsg_cons {m : Message} {rest : List Message} (h : s.msgq = m :: rest) :
    exec .popmsg s = .next { s with msgq := rest, out := .message m } := by
  simp only [exec, execPopmsg, h]
  rfl

theorem exec_popmsg_nil (h : s.msgq = []) : exec .popmsg s = noStep s := by
  simp only [exec, execPopmsg, h]

theorem exec_poperr_cons {e : ErrRecord} {rest : List ErrRecord} (h : s.errq = e :: rest) :
    exec .poperr s = .next { s with errq := rest, out := .report e } := by
  simp only [exec, execPoperr, h]
  rfl

theorem exec_poperr_nil (h : s.errq = []) : exec .poperr s = noStep s := by
  simp only [exec, execPoperr, h]

/-- Settles O46: each pop, on a queue with an oldest entry and on an empty one. -/
theorem popsReturnOldestEntry : Obligations.PopsReturnOldestEntry :=
  fun _ => ⟨fun _ _ => exec_poptx_cons, fun _ _ => exec_popmsg_cons, fun _ _ => exec_poperr_cons, exec_poptx_nil, exec_popmsg_nil,
    exec_poperr_nil⟩

/-- A push appends one entry (R58). -/
theorem exists_appended_of_push {α : Type} (q : List α) (x : α) : ∃ new, q ++ [x] = q ++ new ∧ new.length ≤ 1 :=
  ⟨[x], rfl, Nat.le_refl 1⟩

/-- A queue left alone gains no entry. -/
theorem exists_appended_of_kept {α : Type} (q : List α) : ∃ new, q = q ++ new ∧ new.length ≤ 1 :=
  ⟨[], q.append_nil.symm, Nat.zero_le 1⟩

/-- Everything an instruction can do to TXQ. -/
theorem Effect.txq_cases (h : Effect s i t) :
    (∃ new, t.txq = s.txq ++ new ∧ new.length ≤ 1) ∨ (i = .poptx ∧ ∃ f, s.txq = f :: t.txq ∧ t.out = .frame f) ∨
      (i = .reset ∧ t.txq = []) := by
  cases h with
  | sendSingle | sendFirst | first | consecutive => exact .inl (exists_appended_of_push _ _)
  | poptx f rest hq => exact .inr (.inl ⟨rfl, f, hq, rfl⟩)
  | reset => exact .inr (.inr ⟨rfl, rfl⟩)
  | _ => exact .inl (exists_appended_of_kept _)

/-- Everything an instruction can do to MSGQ. -/
theorem Effect.msgq_cases (h : Effect s i t) :
    (∃ new, t.msgq = s.msgq ++ new ∧ new.length ≤ 1) ∨ (i = .popmsg ∧ ∃ m, s.msgq = m :: t.msgq ∧ t.out = .message m) ∨
      (i = .reset ∧ t.msgq = []) := by
  cases h with
  | deliver | complete => exact .inl (exists_appended_of_push _ _)
  | popmsg m rest hq => exact .inr (.inl ⟨rfl, m, hq, rfl⟩)
  | reset => exact .inr (.inr ⟨rfl, rfl⟩)
  | _ => exact .inl (exists_appended_of_kept _)

/-- Everything an instruction can do to ERRQ. -/
theorem Effect.errq_cases (h : Effect s i t) :
    (∃ new, t.errq = s.errq ++ new ∧ new.length ≤ 1) ∨ (i = .poperr ∧ ∃ e, s.errq = e :: t.errq ∧ t.out = .report e) ∨
      (i = .reset ∧ t.errq = []) := by
  cases h with
  | report => exact .inl (exists_appended_of_push _ _)
  | poperr e rest hq => exact .inr (.inl ⟨rfl, e, hq, rfl⟩)
  | reset => exact .inr (.inr ⟨rfl, rfl⟩)
  | _ => exact .inl (exists_appended_of_kept _)

/-- Settles O56: queue by queue. -/
theorem queuesAreFirstInFirstOut : Obligations.QueuesAreFirstInFirstOut :=
  fun _ _ _ h => ⟨(exec_effect h).txq_cases, (exec_effect h).msgq_cases, (exec_effect h).errq_cases⟩

/-! ### TX_BUF -/

/-- A Consecutive frame leaves TX_BUF alone, whichever way the send goes on (R184). -/
@[simp] theorem TxEngine.afterConsecutive_buf (e : TxEngine) (n : Nat) : (e.afterConsecutive n).buf = e.buf := by
  simp only [TxEngine.afterConsecutive]
  split
  · rfl
  · split <;> rfl

/-- Everything an instruction can do to TX_BUF (R66). -/
theorem Effect.txBuf_cases (h : Effect s i t) :
    t.tx.buf = s.tx.buf ∨ i = .reset ∨ (s.tx.state = .idle ∧ ∃ a b, i = .wrbuf a b) := by
  cases h with
  | wrbuf hs => exact .inr (.inr ⟨hs, _, _, rfl⟩)
  | reset => exact .inr (.inl rfl)
  | consecutive => exact .inl (TxEngine.afterConsecutive_buf _ _)
  | _ => exact .inl rfl

/-- Settles O54: by what an instruction can do to TX_BUF. -/
theorem txBufferWrittenOnlyWhileIdle : Obligations.TxBufferWrittenOnlyWhileIdle :=
  fun _ _ _ h hne => (exec_effect h).txBuf_cases.resolve_left hne

/-! ### An arriving frame and the room it needs -/

/-- A full queue takes no entry (R58). -/
theorem hasRoom_eq_false {d : Config.Depth} {n : Nat} (h : ¬ belowDepth d n) : hasRoom d n = false := by
  rwa [← hasRoom_iff, Bool.not_eq_true] at h

/-- RXFRAME acts by the classification of its frame (R140). -/
theorem exec_rxframe_of_classifyFrame {r : FrameRecord} {v : Except ErrKind Variant}
    (h : classifyFrame s.cfg r.canId r.len.toNat r.data = v) :
    exec (.rxframe r) s = receive s r (errorNibble s.cfg r) v := by
  rw [← h]; rfl

theorem reportFrameError_of_room (h : s.errqRoom = true) (e : ErrKind) (nibble : BitVec 4) (r : FrameRecord) :
    reportFrameError s e nibble r = .next ((s.pushErrq ⟨e, nibble, r.canId, r.len⟩).withOut .nothing) := if_pos h

theorem reportFrameError_of_full (h : s.errqRoom = false) (e : ErrKind) (nibble : BitVec 4) (r : FrameRecord) :
    reportFrameError s e nibble r = noStep s := by
  simp [reportFrameError, h]

theorem deliver_of_full (h : s.msgqRoom = false) (m : Message) : deliver s m = noStep s := by
  simp [deliver, h]

theorem armFirst_of_full (h : s.txqRoom = false) (prio : BitVec 3) (dst src : BitVec 8) (ffDl : BitVec 12) (payload : List Byte) :
    armFirst s prio dst src ffDl payload = noStep s := by
  simp [armFirst, h]

theorem completeTransfer_of_full (h : s.msgqRoom = false) (ra : Reassembly) : completeTransfer s ra = noStep s := by
  simp [completeTransfer, h]

/-- The Consecutive frame that is expected, on numbers (R145). -/
theorem Reassembly.accepts_iff (ra : Reassembly) (sn : BitVec 4) :
    ra.accepts sn = true ↔ ra.active = true ∧ sn.toNat = (ra.lastIdx.toNat + 1) % 16 := by
  rw [Reassembly.accepts, Bool.and_eq_true, beq_iff_eq, ← BitVec.toNat_inj, BitVec.toNat_add]
  rfl

/-- The bytes received after an accepted Consecutive frame (R25, R146). -/
theorem Reassembly.append_count_toNat {ra : Reassembly} (h : ra.count.toNat ≤ ra.size.toNat) (sn : BitVec 4) (payload : List Byte) :
    (ra.append sn payload).count.toNat = min (ra.count.toNat + payload.length) ra.size.toNat := by
  have hlt := ra.size.isLt
  simp only [Reassembly.append, BitVec.toNat_ofNat]
  omega

/-- A Consecutive frame with the last bytes of its message runs the completion (R146). -/
theorem armConsecutive_of_last {sn : BitVec 4} {payload : List Byte} (ha : s.ra.accepts sn = true)
    (hc : s.ra.count.toNat ≤ s.ra.size.toNat) (hl : s.ra.size.toNat ≤ s.ra.count.toNat + payload.length) :
    armConsecutive s sn payload = completeTransfer s (s.ra.append sn payload) := by
  have hcount : (s.ra.append sn payload).count = s.ra.size :=
    BitVec.eq_of_toNat_eq (by rw [Reassembly.append_count_toNat hc, Nat.min_eq_right hl])
  rw [armConsecutive, if_pos ha, if_pos hcount]

/-- Settles O33: each arm that pushes asks for room in its own queue before anything else. -/
theorem fullQueueStallsArrival : Obligations.FullQueueStallsArrival := by
  intro r s
  refine ⟨fun e hv hq => ?_, fun _ _ _ _ hv hq => ?_, fun _ _ _ _ hv hq => ?_, fun _ _ _ _ _ hv hq => ?_,
    fun _ _ _ sn payload hv hact hsn hc hl hq => ?_⟩ <;> rw [exec_rxframe_of_classifyFrame hv]
  · exact reportFrameError_of_full (hasRoom_eq_false hq) _ _ _
  · exact deliver_of_full (hasRoom_eq_false hq) _
  · exact deliver_of_full (hasRoom_eq_false hq) _
  · exact armFirst_of_full (hasRoom_eq_false hq) _ _ _ _ _
  · have ha := (s.ra.accepts_iff sn).mpr ⟨hact, hsn⟩
    exact (armConsecutive_of_last ha hc hl).trans (completeTransfer_of_full (hasRoom_eq_false hq) _)

/-! ### The nibble of an error report -/

/-- A Service frame of 1 to 8 bytes is reported with the high nibble of its byte 0 (R56). -/
theorem errorNibble_of_service {p : Config.Params} {r : FrameRecord} (hs : isService p r.canId) (h1 : 1 ≤ r.len.toNat)
    (h8 : r.len.toNat ≤ 8) : errorNibble p r = hiNibble (byteAt r.data 0) := by
  obtain ⟨hpub, -⟩ | ⟨-, -, hi⟩ | ⟨-, hn, -⟩ := identStage_cases p r.canId
  · exact absurd hpub.2 hs.2.1
  · simp [errorNibble, Config.maxDlc, hi, h1, Nat.not_lt.mpr h8]
  · exact absurd hs hn

/-- Every other frame is reported with nibble 0 (R56; log 14 for the over-long one). -/
theorem errorNibble_eq_zero {p : Config.Params} {r : FrameRecord}
    (h : ¬ isService p r.canId ∨ r.len.toNat = 0 ∨ 8 < r.len.toNat) : errorNibble p r = 0 := by
  by_cases h8 : 8 < r.len.toNat
  · exact if_pos h8
  · obtain ⟨-, hi⟩ | ⟨hs, -, hi⟩ | ⟨-, -, hi⟩ := identStage_cases p r.canId
    · simp [errorNibble, hi]
    · have h0 : r.len.toNat = 0 := (h.resolve_left (not_not.mpr hs)).resolve_right h8
      simp [errorNibble, hi, h0]
    · simp [errorNibble, hi]

/-- Settles O19: the report has the model's nibble, which is fixed in every case. -/
theorem errorReportCarriesNibble : Obligations.ErrorReportCarriesNibble := by
  intro r e s hv hq
  refine ⟨errorNibble s.cfg r, ?_, fun hs h1 h8 => ?_, errorNibble_eq_zero⟩
  · rw [exec_rxframe_of_classifyFrame hv]
    exact reportFrameError_of_room ((hasRoom_iff _ _).mpr hq) _ _ _
  · rw [errorNibble_of_service hs h1 h8, hiNibble_toNat]
    rfl

/-! ### TXSTEP -/

theorem exec_txstep_idle (h : s.tx.state = .idle) : exec .txstep s = noStep s := by
  simp only [exec, execTxstep, h]

theorem exec_txstep_waitFc (h : s.tx.state = .waitFc) :
    exec .txstep s =
      if s.fc.valid then consumeFlow s else if s.tx.timer = 0 then flowTimeout s else noStep s := by
  simp only [exec, execTxstep, h]

theorem exec_txstep_sendCf (h : s.tx.state = .sendCf) : exec .txstep s = sendConsecutive s := by
  simp only [exec, execTxstep, h]

theorem exec_txstep_sepDelay (h : s.tx.state = .sepDelay) :
    exec .txstep s = if s.tx.timer = 0 then endDelay s else noStep s := by
  simp only [exec, execTxstep, h]

theorem exec_txstep_waitPause (h : s.tx.state = .waitPause) :
    exec .txstep s = if s.tx.timer = 0 then endPause s else noStep s := by
  simp only [exec, execTxstep, h]

/-- A stored tuple is always consumed, whatever its flag (R180). -/
theorem consumeFlow_next (s : State) : ∃ t, consumeFlow s = .next t ∧ t.out = .nothing := by
  unfold consumeFlow
  split <;> exact ⟨_, rfl, rfl⟩

/-- The end of a pause is taken under both policies (R186). -/
theorem endPause_next (s : State) : ∃ t, endPause s = .next t ∧ t.out = .nothing := by
  unfold endPause
  split <;> exact ⟨_, rfl, rfl⟩

/-- A Consecutive frame with no room in TXQ is held (R58, R184). -/
theorem sendConsecutive_of_full (h : s.txqRoom = false) : sendConsecutive s = noStep s := if_pos h

/-- A Consecutive frame with room in TXQ is sent: the bytes of the send are written (R178, R184, R194). -/
theorem sendConsecutive_next (h : s.tx.Ok s.cfg) (hs : s.tx.state = .sendCf) (hq : s.txqRoom = true) :
    ∃ t, sendConsecutive s = .next t ∧ t.out = .nothing := by
  have hne : s.tx.state ≠ .idle := by simp [hs]
  have hpos := h.posMax hne
  obtain ⟨payload, hp⟩ := Memory.exists_readBytes (h.written hne) (i := s.tx.pos.toNat)
    (k := min Config.cfMax (s.tx.len.toNat - s.tx.pos.toNat)) (by omega)
  simp only [sendConsecutive, hq, hp]
  exact ⟨_, rfl, rfl⟩

/-- Settles O42: by the state of the TX engine; only the sending of a frame needs the invariant. -/
theorem txstepEnabledExactly : Obligations.TxstepEnabledExactly := by
  intro s hinv enabled
  constructor
  · rintro (⟨hs, hq⟩ | ⟨hs, hv⟩ | ⟨hs | hs, ht⟩)
    · rw [exec_txstep_sendCf hs]
      exact sendConsecutive_next hinv.tx hs ((hasRoom_iff _ _).mpr hq)
    · rw [exec_txstep_waitFc hs]
      split
      case isTrue => exact consumeFlow_next s
      case isFalse hnv =>
        rw [if_pos (hv.resolve_left hnv)]
        exact ⟨_, rfl, rfl⟩
    · rw [exec_txstep_sepDelay hs, if_pos ht]
      exact ⟨_, rfl, rfl⟩
    · rw [exec_txstep_waitPause hs, if_pos ht]
      exact endPause_next s
  · intro hn
    cases hs : s.tx.state with
    | idle => exact exec_txstep_idle hs
    | waitFc =>
      have hv : ¬ s.fc.valid = true := fun hv => hn (.inr (.inl ⟨hs, .inl hv⟩))
      have ht : s.tx.timer ≠ 0 := fun ht => hn (.inr (.inl ⟨hs, .inr ht⟩))
      rw [exec_txstep_waitFc hs, if_neg hv, if_neg ht]
      rfl
    | sendCf =>
      rw [exec_txstep_sendCf hs]
      exact sendConsecutive_of_full (hasRoom_eq_false fun hq => hn (.inl ⟨hs, hq⟩))
    | sepDelay =>
      have ht : s.tx.timer ≠ 0 := fun ht => hn (.inr (.inr ⟨.inl hs, ht⟩))
      rw [exec_txstep_sepDelay hs, if_neg ht]
      rfl
    | waitPause =>
      have ht : s.tx.timer ≠ 0 := fun ht => hn (.inr (.inr ⟨.inr hs, ht⟩))
      rw [exec_txstep_waitPause hs, if_neg ht]
      rfl

end Sys2Proof.Machine
end

section
/-! PROOFS. The encoding (30_encoding.md): the round trip of the encodings (R70 to R76, R80 to R82), what the decoder accepts, the
reserved rows (R78, R79, R82), and the classified variants with their sub-types (R74, R87). -/

namespace Sys2Proof

variable {p : Config.Params}

/-! ### Decoding undoes encoding -/

open Laws.EncodeDecode in
/-- Every row of the table has the law of its encoding. -/
theorem decode_encode : (i : Instr) → Statement i
  | .encpub a b c => encpub a b c
  | .decpub a => decpub a
  | .encsvc a b c => encsvc a b c
  | .decsvc a => decsvc a
  | .classify a b c d => classify a b c d
  | .wrbuf a b => wrbuf a b
  | .send a b c d => send a b c d
  | .status => status
  | .reservedOp0 => reservedOp0
  | .reservedOp9 => reservedOp9
  | .reservedOpA => reservedOpA
  | .reservedOpB => reservedOpB
  | .reservedOpC => reservedOpC
  | .reservedOpD => reservedOpD
  | .reservedOpE => reservedOpE
  | .reservedOpF => reservedOpF
  | .reservedCwHigh cw => reservedCwHigh cw
  | .idPub prio doid src len data => idPub prio doid src len data
  | .idSvc head data => idSvc head data
  | .idReservedDisc prio disc low len data => idReservedDisc prio disc low len data
  | .pciSf head sfDl rest => pciSf head sfDl rest
  | .pciFf head ffDl rest => pciFf head ffDl rest
  | .pciCf head sn rest => pciCf head sn rest
  | .pciFc head fs bs st rest => pciFc head fs bs st rest
  | .pciReserved head nib low rest => pciReserved head nib low rest
  | .fcContinue => fcContinue
  | .fcWait => fcWait
  | .fcAbort => fcAbort
  | .fcReserved fs => fcReserved fs
  | .rxframe rec => rxframe rec
  | .tick => tick
  | .txstep => txstep
  | .poptx => poptx
  | .popmsg => popmsg
  | .poperr => poperr
  | .reset => reset

/-- Settles O9: by the law of each row's encoding. -/
theorem decodeOfEncodeIsIdentity : Obligations.DecodeOfEncodeIsIdentity :=
  fun p i => decode_encode i p

/-! ### What the decoder accepts -/

/-- The heads that the marker check admits are well-formed (R72, R121). -/
theorem ServiceHead.wf_of_markerOk {h : ServiceHead} (hm : markerOk p h.marker = true) : h.wf p = true := by
  rwa [ServiceHead.wf, Bool.or_comm]

/-- Every command word decodes to a well-formed command (R81, R82). -/
theorem decodeCommand_wf (c : Command) : (decodeCommand c).wf p = true := by
  unfold decodeCommand
  split
  case isTrue h => simpa [Instr.wf] using h
  case isFalse => split <;> rfl

/-- A frame image decodes to a record with eight data bytes (R52). -/
theorem decodeRecord_wf {image : List Byte} {i : Instr} (h : decodeRecord image = .ok i) : i.wf p = true := by
  unfold decodeRecord at h
  split at h
  case h_1 =>
    split at h
    case isTrue hl =>
      cases h
      simpa [Instr.wf] using hl
    case isFalse => cases h
  case h_2 => cases h

/-- A frame presented by its identifier decodes to the row that its discriminator and marker select (R71, R72, R79). -/
theorem decodeIdent_wf {id : Ident} {len : Byte} {data : List Byte} {i : Instr} (h : decodeIdent p id len data = .ok i) :
    i.wf p = true := by
  unfold decodeIdent at h
  by_cases hl : data.length = 8
  case neg =>
    rw [if_pos hl] at h
    cases h
  rw [if_neg (not_not.mpr hl)] at h
  split at h
  case isTrue =>
    cases h
    simp [Instr.wf, hl]
  case isFalse hpub =>
    split at h
    case isTrue =>
      split at h
      case isTrue hm =>
        cases h
        simp [Instr.wf, hl, ServiceHead.wf_of_markerOk (h := ⟨_, identMarker id, _, _, _⟩) hm]
      case isFalse =>
        cases h
        simp [Instr.wf, hl]
    case isFalse hsvc =>
      cases h
      simp [Instr.wf, hl, hpub, hsvc]

/-- A Service frame presented by its PCI byte decodes to the row of its sub-type (R74). -/
theorem decodeService_wf {head : ServiceHead} {data : List Byte} {i : Instr} (h : decodeService p head data = .ok i) :
    i.wf p = true := by
  unfold decodeService at h
  split at h
  case h_2 => cases h
  case h_1 pci b1 b2 rest =>
    by_cases hl : rest.length = 5
    case neg =>
      rw [if_pos hl] at h
      cases h
    rw [if_neg (not_not.mpr hl)] at h
    split at h
    case isFalse =>
      cases h
      simp [Instr.wf, hl]
    case isTrue hm =>
      have hh := ServiceHead.wf_of_markerOk hm
      split at h
      case h_5 h0 h1 h2 h3 =>
        cases h
        simp only [imp_false] at h0 h1 h2 h3
        have hn : 4 ≤ (hiNibble pci).toNat := by omega
        simpa [Instr.wf, hl, hh, BitVec.le_def] using hn
      all_goals
        cases h
        simp [Instr.wf, hl, hh]

/-- The FlowControl byte of a turn decodes to the row of its flow status (R76). -/
theorem decodeFlow_wf {pci : Byte} {i : Instr} (h : decodeFlow pci = .ok i) : i.wf p = true := by
  unfold decodeFlow at h
  split at h
  case isTrue => cases h
  case isFalse =>
    split at h
    case h_4 h0 h1 h2 =>
      cases h
      simp only [imp_false] at h0 h1 h2
      have hf : 3 ≤ (loNibble pci).toNat := by omega
      simpa [Instr.wf, BitVec.le_def] using hf
    all_goals
      cases h
      rfl

/-- Settles O10: input by input, by what its decoder accepts. -/
theorem decodedInstructionIsWellFormed : Obligations.DecodedInstructionIsWellFormed := by
  intro p raw i h
  cases raw with
  | command c =>
    cases h
    exact decodeCommand_wf c
  | rx r =>
    cases r with
    | record image => exact decodeRecord_wf h
    | ident id len data => exact decodeIdent_wf h
    | service head data => exact decodeService_wf h
  | flow pci => exact decodeFlow_wf h
  | tick | txstep | poptx | popmsg | poperr | reset =>
    cases h
    rfl

/-! ### The command word -/

/-- Settles O6: no high bit of these words is set, and each OP selects its row. -/
theorem commandWordSelectsCommand : Obligations.CommandWordSelectsCommand := by
  intro p a b c d
  refine ⟨?_, ?_, ?_, ?_, ?_, ?_, ?_, ?_⟩ <;> simp [decode, decodeCommand]

/-- The nine reserved rows of the command port (R82). -/
def Instr.IsReserved (i : Instr) : Prop :=
  i = .reservedOp0 ∨ i = .reservedOp9 ∨ i = .reservedOpA ∨ i = .reservedOpB ∨ i = .reservedOpC ∨ i = .reservedOpD ∨
    i = .reservedOpE ∨ i = .reservedOpF ∨ ∃ cw, i = .reservedCwHigh cw

/-- A word with an OP of no command, or with a reserved bit set, decodes to a reserved row (R82). -/
theorem decodeCommand_isReserved {c : Command} (h : c.cw.toNat % 16 = 0 ∨ 9 ≤ c.cw.toNat % 16 ∨ 16 ≤ c.cw.toNat) :
    (decodeCommand c).IsReserved := by
  have hop : (c.cw.extractLsb' 0 4).toNat = c.cw.toNat % 16 := by
    rw [toNat_slice, Nat.pow_zero, Nat.div_one, show 2 ^ 4 = 16 from rfl]
  have hrest : (c.cw.extractLsb' 4 28).toNat = c.cw.toNat / 16 := by
    have := c.cw.isLt
    rw [toNat_slice]
    omega
  unfold decodeCommand
  split
  case isTrue => simp [Instr.IsReserved]
  case isFalse hhigh =>
    have hlow : c.cw.toNat / 16 = 0 := by
      rw [← hrest, not_not.mp hhigh]
      rfl
    rw [hop]
    split
    case h_1 | h_2 | h_3 | h_4 | h_5 | h_6 | h_7 | h_8 => omega
    all_goals simp [Instr.IsReserved]

/-! ### Table words -/

/-- Settles O12: each word is a closed input of the decoder. -/
theorem specWordsDecode : Obligations.SpecWordsDecode := by
  refine ⟨?_, ?_, ?_, ?_, ?_, ?_, ?_, ?_⟩ <;> decide

end Sys2Proof

namespace Sys2Proof.Machine

open Sys2Proof.Spec

variable {p : Config.Params} {s : State}

/-! ### The reserved commands -/

/-- Every reserved row refuses alike (R82). -/
theorem exec_of_isReserved {i : Instr} (h : i.IsReserved) :
    exec i s = .next { s with out := errorAnswer .invalidField } := by
  obtain rfl | rfl | rfl | rfl | rfl | rfl | rfl | rfl | ⟨cw, rfl⟩ := h <;> rfl

/-- Settles O7: a reserved word decodes to a reserved row, and every reserved row refuses. -/
theorem reservedCommandsAnswerInvalidField : Obligations.ReservedCommandsAnswerInvalidField :=
  ⟨fun _ _ h => exec_of_isReserved (decodeCommand_isReserved h), fun _ _ h => exec_of_isReserved h⟩

/-! ### The fields of a Service frame's first bytes -/

theorem loNibble_eq_ofNat (b : Byte) : BitVec.ofNat 4 b.toNat = loNibble b := by
  apply BitVec.eq_of_toNat_eq
  rw [loNibble_toNat, BitVec.toNat_ofNat, show 2 ^ 4 = 16 from rfl]

theorem hiNibble_eq_ofNat (b : Byte) : BitVec.ofNat 4 (b.toNat / 16) = hiNibble b := by
  have := b.isLt
  apply BitVec.eq_of_toNat_eq
  rw [hiNibble_toNat, BitVec.toNat_ofNat]
  omega

theorem ffDl_eq_ofNat (b0 b1 : Byte) : BitVec.ofNat 12 (b0.toNat % 16 * 256 + b1.toNat) = loNibble b0 ++ b1 := by
  have := b1.isLt
  apply BitVec.eq_of_toNat_eq
  rw [ffDl_toNat, BitVec.toNat_ofNat]
  omega

/-- A PCI byte put together from a known sub-type and its own low nibble (R74). -/
theorem pciByte_loNibble {b : Byte} {nib : BitVec 4} (h : b.toNat / 16 = nib.toNat) : pciByte nib (loNibble b) = b := by
  rw [← BitVec.eq_of_toNat_eq ((hiNibble_toNat b).trans h), pciByte_nibbles]

theorem slice_hi_loNibble_append (b0 b1 : Byte) : (loNibble b0 ++ b1 : BitVec 12).extractLsb' 8 4 = loNibble b0 := by
  have := b1.isLt
  apply BitVec.eq_of_toNat_eq
  rw [toNat_slice, ffDl_toNat, loNibble_toNat]
  omega

theorem slice_lo_loNibble_append (b0 b1 : Byte) : (loNibble b0 ++ b1 : BitVec 12).extractLsb' 0 8 = b1 := by
  have := b1.isLt
  apply BitVec.eq_of_toNat_eq
  rw [toNat_slice, ffDl_toNat]
  omega

/-! ### Service frames by their sub-type -/

section Subtypes

variable {prio : BitVec 3} {dst src : BitVec 8} {len : Nat} {data : List Byte}

theorem classifyService_of_single (hl : len ≠ 0) (h : (hiNibble (byteAt data 0)).toNat = 0) :
    classifyService prio dst src len data = classifySingle prio dst src len data := by
  simp [classifyService, hl, h]

theorem classifyService_of_first (hl : len ≠ 0) (h : (hiNibble (byteAt data 0)).toNat = 1) :
    classifyService prio dst src len data = classifyFirst prio dst src len data := by
  simp [classifyService, hl, h]

theorem classifyService_of_consecutive (hl : len ≠ 0) (h : (hiNibble (byteAt data 0)).toNat = 2) :
    classifyService prio dst src len data = classifyConsecutive prio dst src len data := by
  simp [classifyService, hl, h]

theorem classifyService_of_flow (hl : len ≠ 0) (h : (hiNibble (byteAt data 0)).toNat = 3) :
    classifyService prio dst src len data = classifyFlow prio dst src len data := by
  simp [classifyService, hl, h]

theorem classifyService_of_reserved (hl : len ≠ 0) (h : 4 ≤ (hiNibble (byteAt data 0)).toNat) :
    classifyService prio dst src len data = .error .unknownFrameType := by
  rw [classifyService, if_neg hl]
  match (hiNibble (byteAt data 0)).toNat, h with
  | _ + 4, _ => rfl

end Subtypes

/-- Settles O31: the PCI byte of the row is byte 0, and its classifier is the one that byte 0 selects. -/
theorem serviceFrameActsBySubtype : Obligations.ServiceFrameActsBySubtype := by
  intro h b0 b1 b2 rest s h1 _ _
  have hl : h.len.toNat ≠ 0 := Nat.ne_of_gt h1
  have hb : (hiNibble (byteAt (b0 :: b1 :: b2 :: rest) 0)).toNat = b0.toNat / 16 := hiNibble_toNat b0
  rw [loNibble_eq_ofNat, hiNibble_eq_ofNat, ffDl_eq_ofNat]
  split
  case h_1 h0 =>
    have hp : pciByte 0x0 (loNibble b0) = b0 := pciByte_loNibble h0
    simp only [exec, execIdSvc, execPciSf, hp, classifyService_of_single hl (hb.trans h0)]
  case h_2 h0 =>
    have hp : pciByte 0x1 (loNibble b0) = b0 := pciByte_loNibble h0
    simp only [exec, execIdSvc, execPciFf, slice_hi_loNibble_append, slice_lo_loNibble_append, hp,
      classifyService_of_first hl (hb.trans h0)]
  case h_3 h0 =>
    have hp : pciByte 0x2 (loNibble b0) = b0 := pciByte_loNibble h0
    simp only [exec, execIdSvc, execPciCf, hp, classifyService_of_consecutive hl (hb.trans h0)]
  case h_4 h0 =>
    have hp : pciByte 0x3 (loNibble b0) = b0 := pciByte_loNibble h0
    simp only [exec, execIdSvc, execPciFc, hp, classifyService_of_flow hl (hb.trans h0)]
  case h_5 n0 n1 n2 n3 =>
    simp only [imp_false] at n0 n1 n2 n3
    have h4 : 4 ≤ (hiNibble (byteAt (b0 :: b1 :: b2 :: rest) 0)).toNat := by omega
    simp only [exec, execIdSvc, execPciReserved, pciByte_nibbles, classifyService_of_reserved hl h4]

/-! ### Reserved frames -/

/-- The error report of a frame on an ERRQ with room, on the state's fields (R141). -/
theorem reportFrameError_next (h : belowDepth s.cfg.qErr s.errq.length) (e : ErrKind) (nibble : BitVec 4) (r : FrameRecord) :
    reportFrameError s e nibble r = .next { s with errq := s.errq ++ [⟨e, nibble, r.canId, r.len⟩], out := .nothing } :=
  reportFrameError_of_room ((hasRoom_iff _ _).mpr h) e nibble r

/-- A length of at most 8 passes the length stage (R122). -/
theorem not_maxDlc_lt {n : Nat} (h : n ≤ 8) : ¬ Config.maxDlc < n := Nat.not_lt.mpr h

/-- A Service frame of 1 to 8 bytes acts by its classification (R122, R124). -/
theorem receiveService_of_len {h : ServiceHead} (h1 : 1 ≤ h.len.toNat) (h8 : h.len.toNat ≤ 8) (data : List Byte)
    (v : Except ErrKind Variant) :
    receiveService s h data v = receive s (serviceRecord s.cfg h data) (hiNibble (byteAt data 0)) v := by
  have h0 : h.len ≠ 0 := fun h0 => absurd (congrArg BitVec.toNat h0) (Nat.ne_of_gt h1)
  simp only [receiveService]
  rw [if_neg (not_maxDlc_lt h8), if_neg h0]

/-- Settles O22: neither family has the discriminator, so that the report is all that happens. -/
theorem reservedDiscriminatorReported : Obligations.ReservedDiscriminatorReported := by
  intro prio disc low len data s h8 hq
  simp only [exec, execIdReservedDisc]
  rw [if_neg (not_maxDlc_lt h8), reportFrameError_next hq, extCanId_reservedIdent]

/-- Settles O28: the classification of the row is the error, and its report carries the row's nibble. -/
theorem reservedSubtypeReported : Obligations.ReservedSubtypeReported := by
  intro h nib low rest s h1 h8 hq
  have hn : hiNibble (byteAt (pciByte nib low :: rest) 0) = nib := hiNibble_pciByte nib low
  simp only [exec, execPciReserved]
  rw [receiveService_of_len h1 h8, hn, receive, reportFrameError_next hq, extCanId_svcIdent]
  rfl

/-! ### The operands and results of CLASSIFY as numbers -/

/-- Y1 of a classified frame as a number (R84). -/
theorem fieldsWord_toNat (prio : BitVec 3) (x : BitVec 16) (src : BitVec 8) :
    (fieldsWord prio x src).toNat = fieldsNumber prio.toNat x.toNat src.toNat := by
  have h : (fieldsWord prio x src).toNat = ((0#5) ++ prio ++ x ++ src).toNat := rfl
  rw [h, toNat_append, toNat_append, toNat_append, fieldsNumber, BitVec.toNat_ofNat, Nat.zero_mod]
  ring

/-! The identifier fields of a can_id (R70 to R72) and the data bytes of CLASSIFY's operands (R83). -/

theorem identPrio_slice_toNat (w : Word) : (identPrio (w.extractLsb' 0 29)).toNat = w.toNat / 2 ^ 26 % 8 := by
  rw [identPrio_toNat, toNat_slice]; omega

theorem identDoid_slice_toNat (w : Word) : (identDoid (w.extractLsb' 0 29)).toNat = w.toNat / 2 ^ 8 % 2 ^ 16 := by
  rw [identDoid_toNat, toNat_slice]; omega

theorem identDst_slice_toNat (w : Word) : (identDst (w.extractLsb' 0 29)).toNat = w.toNat / 2 ^ 8 % 256 := by
  rw [identDst_toNat, toNat_slice]; omega

theorem identSrc_slice_toNat (w : Word) : (identSrc (w.extractLsb' 0 29)).toNat = w.toNat % 256 := by
  rw [identSrc_toNat, toNat_slice]; omega

theorem byteAt_operandData_zero (c d : Word) : (byteAt (operandData c d) 0).toNat = c.toNat % 256 := by
  show (c.extractLsb' 0 8).toNat = _
  rw [toNat_slice]; omega

theorem byteAt_operandData_one (c d : Word) : (byteAt (operandData c d) 1).toNat = c.toNat / 2 ^ 8 % 256 := toNat_slice c 8 8

theorem byteAt_operandData_two (c d : Word) : (byteAt (operandData c d) 2).toNat = c.toNat / 2 ^ 16 % 256 := toNat_slice c 16 8

theorem hiNibble_operandData (c d : Word) : (hiNibble (byteAt (operandData c d) 0)).toNat = c.toNat / 16 % 16 := by
  rw [hiNibble_toNat, byteAt_operandData_zero]; omega

theorem loNibble_operandData (c d : Word) : (loNibble (byteAt (operandData c d) 0)).toNat = c.toNat % 16 := by
  rw [loNibble_toNat, byteAt_operandData_zero]; omega

@[simp] theorem operandData_length (c d : Word) : (operandData c d).length = 8 := rfl

/-- Y1 of a Service frame (R84). -/
def serviceFields (w : Word) : Word :=
  fieldsWord (identPrio (w.extractLsb' 0 29)) ((identDst (w.extractLsb' 0 29)).setWidth 16) (identSrc (w.extractLsb' 0 29))

theorem serviceFields_toNat (w : Word) :
    (serviceFields w).toNat = fieldsNumber (w.toNat / 2 ^ 26 % 8) (w.toNat / 2 ^ 8 % 256) (w.toNat % 256) := by
  rw [serviceFields, fieldsWord_toNat, BitVec.toNat_setWidth_of_le (by decide), identPrio_slice_toNat, identDst_slice_toNat,
    identSrc_slice_toNat]

/-- Y2 of a FlowControl frame as a number (R87). -/
theorem flowWord_eq_ofNat (fs : BitVec 4) (bs st : Byte) :
    ((0#8) ++ st ++ bs ++ fs.setWidth 8 : Word) = BitVec.ofNat 32 (st.toNat * 2 ^ 16 + bs.toNat * 2 ^ 8 + fs.toNat) := by
  have h : ((0#8) ++ st ++ bs ++ fs.setWidth 8 : Word).toNat = ((0#8) ++ st ++ bs ++ fs.setWidth 8).toNat := rfl
  have := st.isLt; have := bs.isLt; have := fs.isLt
  apply BitVec.eq_of_toNat_eq
  rw [h, toNat_append, toNat_append, toNat_append, BitVec.toNat_setWidth_of_le (by decide), BitVec.toNat_ofNat, BitVec.toNat_ofNat]
  omega

/-! ### CLASSIFY -/

section Classify

variable {a b c d : Word}

/-- CLASSIFY of a frame that does not classify (R130, R211). -/
theorem exec_classify_error {e : ErrKind} (h : classifyFrame s.cfg a b.toNat (operandData c d) = .error e) :
    exec (.classify a b c d) s = .next { s with out := errorAnswer e } := by
  simp only [exec, execClassify, h]
  rfl

/-- CLASSIFY of a frame that classifies (R130). -/
theorem exec_classify_ok {v : Variant} (h : classifyFrame s.cfg a b.toNat (operandData c d) = .ok v) :
    exec (.classify a b c d) s = variantResponse s v := by
  simp only [exec, execClassify, h]

/-- classify on a Publication identifier (R123). -/
theorem classifyFrame_of_isPublication {w : Word} {len : Nat} (h : isPublication p w) (h8 : len ≤ 8) (data : List Byte) :
    classifyFrame p w len data =
      .ok (.pubSingle (identPrio (w.extractLsb' 0 29)) (identDoid (w.extractLsb' 0 29)) (identSrc (w.extractLsb' 0 29))
        (data.take len)) := by
  obtain ⟨-, hi⟩ | ⟨-, hn, -⟩ | ⟨hn, -⟩ := identStage_cases p w
  · rw [classifyFrame, if_neg (not_maxDlc_lt h8), hi, slice_zero]
  · exact absurd h hn
  · exact absurd h hn

/-- classify on a Service identifier (R124). -/
theorem classifyFrame_of_isService {w : Word} {len : Nat} (h : isService p w) (h8 : len ≤ 8) (data : List Byte) :
    classifyFrame p w len data =
      classifyService (identPrio (w.extractLsb' 0 29)) (identDst (w.extractLsb' 0 29)) (identSrc (w.extractLsb' 0 29)) len
        data := by
  obtain ⟨hpub, -⟩ | ⟨-, -, hi⟩ | ⟨-, hn, -⟩ := identStage_cases p w
  · exact absurd hpub.2 h.2.1
  · rw [classifyFrame, if_neg (not_maxDlc_lt h8), hi]
  · exact absurd h hn

/-- CLASSIFY of a Publication frame (R87, R123). -/
theorem exec_classify_of_isPublication (h : isPublication s.cfg a) (h8 : b.toNat ≤ 8) :
    ∃ y1 : Word, exec (.classify a b c d) s = .next { s with out := .response ⟨.success, 0, y1, b, b⟩ } ∧
        y1.toNat = fieldsNumber (a.toNat / 2 ^ 26 % 8) (a.toNat / 2 ^ 8 % 2 ^ 16) (a.toNat % 256) := by
  have hlen : BitVec.ofNat 32 ((operandData c d).take b.toNat).length = b := by
    rw [List.length_take, operandData_length, Nat.min_eq_left h8, BitVec.ofNat_toNat, BitVec.setWidth_eq]
  refine ⟨fieldsWord (identPrio (a.extractLsb' 0 29)) (identDoid (a.extractLsb' 0 29)) (identSrc (a.extractLsb' 0 29)), ?_, ?_⟩
  · rw [exec_classify_ok (classifyFrame_of_isPublication h h8 _), variantResponse, hlen]
    rfl
  · rw [fieldsWord_toNat, identPrio_slice_toNat, identDoid_slice_toNat, identSrc_slice_toNat]

/-- Settles O17: by the family, and for a Service frame by the classifier of its sub-type on both sides of its minimum length. -/
theorem classifyAnswersVariant : Obligations.ClassifyAnswersVariant := by
  intro a b c d s h8
  refine ⟨fun h => exec_classify_of_isPublication h h8, fun hs h1 => ?_⟩
  have hl : b.toNat ≠ 0 := Nat.ne_of_gt h1
  have hn := hiNibble_operandData c d
  have hf := classifyFrame_of_isService hs h8 (operandData c d)
  rw [← loNibble_operandData c d]
  refine ⟨serviceFields a, serviceFields_toNat a, ?_⟩
  refine ⟨fun ht => ?single, fun ht => ?first, fun ht => ?consecutive, fun ht => ?flow, fun ht => ?reserved⟩
  case single =>
    have hc := hf.trans (classifyService_of_single hl (hn.trans ht))
    refine ⟨fun hshort => exec_classify_error (hc.trans (if_pos hshort)), fun hlong => ?_⟩
    rw [exec_classify_ok (hc.trans (if_neg (Nat.not_lt.mpr hlong))), variantResponse, slice_length, operandData_length,
      Nat.min_eq_left (hlong.trans h8), Nat.add_sub_cancel_left]
    rfl
  case first =>
    have hc := hf.trans (classifyService_of_first hl (hn.trans ht))
    refine ⟨fun hshort => exec_classify_error (hc.trans (if_pos hshort)), fun hlong => ?_⟩
    rw [exec_classify_ok (hc.trans (if_neg (Nat.not_lt.mpr hlong))), variantResponse, slice_length, operandData_length,
      Nat.min_eq_left h8, ← byteAt_operandData_one c d, loNibble_toNat, ← ffDl_toNat, BitVec.ofNat_toNat]
    rfl
  case consecutive =>
    have hc := hf.trans (classifyService_of_consecutive hl (hn.trans ht))
    rw [exec_classify_ok hc, variantResponse, slice_length, operandData_length, Nat.min_eq_left h8, BitVec.ofNat_toNat]
    rfl
  case flow =>
    have hc := hf.trans (classifyService_of_flow hl (hn.trans ht))
    refine ⟨fun hshort => exec_classify_error (hc.trans (if_pos hshort)), fun hlong => ?_⟩
    rw [exec_classify_ok (hc.trans (if_neg (Nat.not_lt.mpr hlong))), variantResponse, flowWord_eq_ofNat, byteAt_operandData_one,
      byteAt_operandData_two]
    rfl
  case reserved => exact exec_classify_error (hf.trans (classifyService_of_reserved hl (ht.trans_eq hn.symm)))

end Classify

end Sys2Proof.Machine
end

section
/-! PROOFS. The identifier codec (40_codec.md): what the four commands answer on identifier fields and on identifiers (R100 to R103), and
the round trips of both families (R104). -/

namespace Sys2Proof.Machine

open Sys2Proof.Spec

variable {p : Config.Params} {s : State} {a b c v y0 y1 y2 : Word}

/-! ### Fields and identifiers as words -/

/-- A word in the range of a narrower field is that field, zero-extended (R84). -/
theorem exists_eq_setWidth {w : Word} {n : Nat} (h : w.toNat < 2 ^ n) : ∃ x : BitVec n, w = x.setWidth 32 := by
  refine ⟨w.setWidth n, BitVec.eq_of_toNat_eq ?_⟩
  rw [BitVec.toNat_setWidth, BitVec.toNat_setWidth, Nat.mod_eq_of_lt h, Nat.mod_eq_of_lt w.isLt]

/-- The low bits of a zero-extended field are the field. -/
theorem slice_setWidth {n : Nat} (hn : n ≤ 32) (x : BitVec n) : (x.setWidth 32 : Word).extractLsb' 0 n = x := by
  rw [BitVec.extractLsb'_setWidth_of_le ((Nat.zero_add n).trans_le hn), BitVec.extractLsb'_eq_self]

@[simp] theorem prioOf_setWidth (prio : BitVec 3) : prioOf (prio.setWidth 32) = prio := slice_setWidth (by decide) prio
@[simp] theorem doidOf_setWidth (doid : BitVec 16) : doidOf (doid.setWidth 32) = doid := slice_setWidth (by decide) doid
@[simp] theorem addrOf_setWidth (addr : BitVec 8) : addrOf (addr.setWidth 32) = addr := slice_setWidth (by decide) addr

@[simp] theorem ident_setWidth_toNat (id : Ident) : (id.setWidth 32 : Word).toNat = id.toNat :=
  BitVec.toNat_setWidth_of_le (by decide)

/-- An identifier passes the width test (R101, R103). -/
theorem ident_not_wide (id : Ident) : ¬ 2 ^ 29 ≤ (id.setWidth 32 : Word).toNat := by
  rw [ident_setWidth_toNat]
  exact Nat.not_le_of_lt id.isLt

/-- An operand is too wide for an identifier, or is one (R101, R103). -/
theorem wide_or_ident (w : Word) : 2 ^ 29 ≤ w.toNat ∨ ∃ id : Ident, w = id.setWidth 32 :=
  (Nat.lt_or_ge w.toNat (2 ^ 29)).symm.imp_right exists_eq_setWidth

theorem discOf_ident (id : Ident) : discOf id.toNat = (identDisc id).toNat := (identDisc_toNat id).symm
theorem markerOf_ident (id : Ident) : markerOf id.toNat = (identMarker id).toNat := (identMarker_toNat id).symm

/-- A Publication identifier is the packing of its fields (R71). -/
theorem pubIdent_fields {id : Ident} (h : identDisc id = p.pubDisc) :
    pubIdent p (identPrio id) (identDoid id) (identSrc id) = id := by
  apply BitVec.eq_of_toNat_eq
  rw [pubIdent_toNat, ← h, identPrio_toNat, identDisc_toNat, identDoid_toNat, identSrc_toNat]
  omega

/-- A Service identifier is the packing of its fields (R72). -/
theorem svcIdent_fields {id : Ident} (h : identDisc id = p.svcDisc) :
    svcIdent p (identPrio id) (identMarker id) (identDst id) (identSrc id) = id := by
  apply BitVec.eq_of_toNat_eq
  rw [svcIdent_toNat, ← h, identPrio_toNat, identDisc_toNat, identMarker_toNat, identDst_toNat, identSrc_toNat]
  omega

/-! ### The operand ranges (R83) -/

theorem pubOperands_inRange_iff :
    (prioInRange a && doidInRange b && addrInRange c) = true ↔ a.toNat ≤ 7 ∧ b.toNat ≤ 65535 ∧ c.toNat ≤ 255 := by
  simp only [prioInRange, doidInRange, addrInRange, Bool.and_eq_true, decide_eq_true_eq, and_assoc]

theorem svcOperands_inRange_iff :
    (prioInRange a && addrInRange b && addrInRange c) = true ↔ a.toNat ≤ 7 ∧ b.toNat ≤ 255 ∧ c.toNat ≤ 255 := by
  simp only [prioInRange, addrInRange, Bool.and_eq_true, decide_eq_true_eq, and_assoc]

/-- Operands in range are fields: a priority, a data-object id (16 bits) or an address (8 bits), and an address. -/
theorem exists_fields {n : Nat} (ha : a.toNat ≤ 7) (hb : b.toNat < 2 ^ n) (hc : c.toNat ≤ 255) :
    ∃ (prio : BitVec 3) (mid : BitVec n) (src : BitVec 8), a = prio.setWidth 32 ∧ b = mid.setWidth 32 ∧ c = src.setWidth 32 := by
  obtain ⟨prio, hprio⟩ := exists_eq_setWidth (n := 3) (Nat.lt_succ_of_le ha)
  obtain ⟨mid, hmid⟩ := exists_eq_setWidth hb
  obtain ⟨src, hsrc⟩ := exists_eq_setWidth (n := 8) (Nat.lt_succ_of_le hc)
  exact ⟨prio, mid, src, hprio, hmid, hsrc⟩

/-- A zero-extended field stays in the range of the field. -/
theorem setWidth_toNat_le {n : Nat} (hn : n ≤ 32) (x : BitVec n) : (x.setWidth 32 : Word).toNat ≤ 2 ^ n - 1 := by
  rw [BitVec.toNat_setWidth_of_le hn]
  exact Nat.le_pred_of_lt x.isLt

/-! ### ENCPUB and ENCSVC -/

/-- ENCPUB packs fields (R100). -/
theorem exec_encpub_fields (prio : BitVec 3) (doid : BitVec 16) (src : BitVec 8) :
    exec (.encpub (prio.setWidth 32) (doid.setWidth 32) (src.setWidth 32)) s =
      respond s ((pubIdent s.cfg prio doid src).setWidth 32) 0 0 0 := by
  have hr := pubOperands_inRange_iff.mpr
    ⟨setWidth_toNat_le (by decide) prio, setWidth_toNat_le (by decide) doid, setWidth_toNat_le (by decide) src⟩
  simp only [exec, execEncpub]
  rw [if_pos hr, prioOf_setWidth, doidOf_setWidth, addrOf_setWidth]

/-- ENCPUB refuses an operand out of range (R100). -/
theorem exec_encpub_of_outOfRange (h : 7 < a.toNat ∨ 65535 < b.toNat ∨ 255 < c.toNat) :
    exec (.encpub a b c) s = raiseCommand s .invalidField := by
  simp only [exec, execEncpub]
  rw [if_neg (mt pubOperands_inRange_iff.mp (by omega))]

/-- ENCSVC packs fields (R102). -/
theorem exec_encsvc_fields (prio : BitVec 3) (dst src : BitVec 8) :
    exec (.encsvc (prio.setWidth 32) (dst.setWidth 32) (src.setWidth 32)) s =
      respond s ((svcIdent s.cfg prio s.cfg.svcMarker dst src).setWidth 32) 0 0 0 := by
  have hr := svcOperands_inRange_iff.mpr
    ⟨setWidth_toNat_le (by decide) prio, setWidth_toNat_le (by decide) dst, setWidth_toNat_le (by decide) src⟩
  simp only [exec, execEncsvc]
  rw [if_pos hr, prioOf_setWidth, addrOf_setWidth, addrOf_setWidth]

/-- ENCSVC refuses an operand out of range (R102). -/
theorem exec_encsvc_of_outOfRange (h : 7 < a.toNat ∨ 255 < b.toNat ∨ 255 < c.toNat) :
    exec (.encsvc a b c) s = raiseCommand s .invalidField := by
  simp only [exec, execEncsvc]
  rw [if_neg (mt svcOperands_inRange_iff.mp (by omega))]

/-- Settles O1: operands in range are fields, which ENCPUB packs. -/
theorem encpubPacksPublicationIdentifier : Obligations.EncpubPacksPublicationIdentifier := by
  refine fun a b c s => ⟨fun ha hb hc => ?_, exec_encpub_of_outOfRange⟩
  obtain ⟨prio, doid, src, rfl, rfl, rfl⟩ := exists_fields (n := 16) ha (Nat.lt_succ_of_le hb) hc
  refine ⟨_, exec_encpub_fields prio doid src, ?_, ?_⟩
  · rw [ident_setWidth_toNat, pubIdent_toNat, BitVec.toNat_setWidth_of_le (by decide), BitVec.toNat_setWidth_of_le (by decide),
      BitVec.toNat_setWidth_of_le (by decide), pubIdNumber]
  · exact Nat.lt_of_not_le (ident_not_wide _)

/-- Settles O3: operands in range are fields, which ENCSVC packs with SVC_MARKER. -/
theorem encsvcPacksServiceIdentifier : Obligations.EncsvcPacksServiceIdentifier := by
  refine fun a b c s => ⟨fun ha hb hc => ?_, exec_encsvc_of_outOfRange⟩
  obtain ⟨prio, dst, src, rfl, rfl, rfl⟩ := exists_fields (n := 8) ha (Nat.lt_succ_of_le hb) hc
  refine ⟨_, exec_encsvc_fields prio dst src, ?_, ?_⟩
  · rw [ident_setWidth_toNat, svcIdent_toNat, BitVec.toNat_setWidth_of_le (by decide), BitVec.toNat_setWidth_of_le (by decide),
      BitVec.toNat_setWidth_of_le (by decide), svcIdNumber]
  · exact Nat.lt_of_not_le (ident_not_wide _)

/-! ### DECPUB and DECSVC -/

/-- DECPUB refuses a value wider than an identifier (R101). -/
theorem exec_decpub_of_wide (h : 2 ^ 29 ≤ a.toNat) : exec (.decpub a) s = raiseCommand s .malformedIdentifier := if_pos h

/-- DECPUB on an identifier tests its discriminator (R101). -/
theorem exec_decpub_ident (id : Ident) :
    exec (.decpub (id.setWidth 32)) s =
      if identDisc id = s.cfg.pubDisc then
        respond s ((identPrio id).setWidth 32) ((identDoid id).setWidth 32) ((identSrc id).setWidth 32) 0
      else raiseCommand s .malformedIdentifier := by
  simp only [exec, execDecpub]
  rw [if_neg (ident_not_wide id), slice_setWidth (by decide), ite_not]

/-- DECSVC refuses a value wider than an identifier (R103). -/
theorem exec_decsvc_of_wide (h : 2 ^ 29 ≤ a.toNat) : exec (.decsvc a) s = raiseCommand s .malformedIdentifier := if_pos h

/-- DECSVC on an identifier tests its discriminator and its marker (R103). -/
theorem exec_decsvc_ident (id : Ident) :
    exec (.decsvc (id.setWidth 32)) s =
      if identDisc id = s.cfg.svcDisc ∧ markerOk s.cfg (identMarker id) = true then
        respond s ((identPrio id).setWidth 32) ((identDst id).setWidth 32) ((identSrc id).setWidth 32) 0
      else raiseCommand s .malformedIdentifier := by
  simp only [exec, execDecsvc]
  rw [if_neg (ident_not_wide id), slice_setWidth (by decide), ite_not, ite_and]
  cases markerOk s.cfg (identMarker id) <;> rfl

/-- Settles O2: a value is too wide or is an identifier, and then its discriminator decides. -/
theorem decpubUnpacksPublicationIdentifier : Obligations.DecpubUnpacksPublicationIdentifier := by
  intro a s
  obtain hw | ⟨id, rfl⟩ := wide_or_ident a
  · exact ⟨fun _ => exec_decpub_of_wide hw, fun hn => absurd hw (Nat.not_le_of_lt hn)⟩
  rw [exec_decpub_ident, ident_setWidth_toNat, discOf_ident, ne_eq, BitVec.toNat_inj]
  refine ⟨fun h => if_neg (h.resolve_left (Nat.not_le_of_lt id.isLt)), fun _ hd => ?_⟩
  refine ⟨_, _, _, if_pos hd, ?_, ?_, ?_⟩ <;> rw [BitVec.toNat_setWidth_of_le (by decide)]
  · exact identPrio_toNat id
  · exact identDoid_toNat id
  · exact identSrc_toNat id

/-- Settles O4: a value is too wide or is an identifier, and then its discriminator and its marker decide. -/
theorem decsvcUnpacksServiceIdentifier : Obligations.DecsvcUnpacksServiceIdentifier := by
  intro a s
  obtain hw | ⟨id, rfl⟩ := wide_or_ident a
  · exact ⟨fun _ => exec_decsvc_of_wide hw, fun hn => absurd hw (Nat.not_le_of_lt hn)⟩
  simp only [exec_decsvc_ident, ident_setWidth_toNat, discOf_ident, markerOf_ident, BitVec.toNat_inj, ne_eq, markerOk_iff]
  constructor
  · rintro (hw | hd | ⟨hs, hm⟩)
    · exact absurd hw (Nat.not_le_of_lt id.isLt)
    · exact if_neg fun h => hd h.1
    · exact if_neg fun h => hm (h.2 hs)
  · intro _ hd hm
    refine ⟨_, _, _, if_pos ⟨hd, hm⟩, ?_, ?_, ?_⟩ <;> rw [BitVec.toNat_setWidth_of_le (by decide)]
    · exact identPrio_toNat id
    · exact identDst_toNat id
    · exact identSrc_toNat id

/-! ### The round trips (R104) -/

/-- An error is no answer with success. -/
theorem raiseCommand_ne_respond {e : ErrKind} {y3 : Word} (he : e ≠ .success) : raiseCommand s e ≠ respond s y0 y1 y2 y3 := by
  intro h
  cases h
  exact he rfl

/-- DECPUB accepts the Publication identifiers only, and answers their fields (R101). -/
theorem exec_decpub_success (h : exec (.decpub v) s = respond s y0 y1 y2 0) :
    ∃ id : Ident, v = id.setWidth 32 ∧ identDisc id = s.cfg.pubDisc ∧
      y0 = (identPrio id).setWidth 32 ∧ y1 = (identDoid id).setWidth 32 ∧ y2 = (identSrc id).setWidth 32 := by
  obtain hw | ⟨id, rfl⟩ := wide_or_ident v
  · rw [exec_decpub_of_wide hw] at h
    exact absurd h (raiseCommand_ne_respond (by decide))
  rw [exec_decpub_ident] at h
  split at h
  case isTrue hd =>
    cases h
    exact ⟨id, rfl, hd, rfl, rfl, rfl⟩
  case isFalse => exact absurd h (raiseCommand_ne_respond (by decide))

/-- DECSVC accepts the Service identifiers with a marker that passes, and answers their fields (R103). -/
theorem exec_decsvc_success (h : exec (.decsvc v) s = respond s y0 y1 y2 0) :
    ∃ id : Ident, v = id.setWidth 32 ∧ identDisc id = s.cfg.svcDisc ∧ markerOk s.cfg (identMarker id) = true ∧
      y0 = (identPrio id).setWidth 32 ∧ y1 = (identDst id).setWidth 32 ∧ y2 = (identSrc id).setWidth 32 := by
  obtain hw | ⟨id, rfl⟩ := wide_or_ident v
  · rw [exec_decsvc_of_wide hw] at h
    exact absurd h (raiseCommand_ne_respond (by decide))
  rw [exec_decsvc_ident] at h
  split at h
  case isTrue hi =>
    cases h
    exact ⟨id, rfl, hi.1, hi.2, rfl, rfl, rfl⟩
  case isFalse => exact absurd h (raiseCommand_ne_respond (by decide))

/-- DECPUB undoes ENCPUB on fields. -/
theorem exec_decpub_pubIdent (prio : BitVec 3) (doid : BitVec 16) (src : BitVec 8) :
    exec (.decpub ((pubIdent s.cfg prio doid src).setWidth 32)) s =
      respond s (prio.setWidth 32) (doid.setWidth 32) (src.setWidth 32) 0 := by
  rw [exec_decpub_ident, if_pos (identDisc_pubIdent ..), identPrio_pubIdent, identDoid_pubIdent, identSrc_pubIdent]

/-- DECSVC undoes ENCSVC on fields: SVC_MARKER passes the marker test under both settings of STRICT_MARKER. -/
theorem exec_decsvc_svcIdent (prio : BitVec 3) (dst src : BitVec 8) :
    exec (.decsvc ((svcIdent s.cfg prio s.cfg.svcMarker dst src).setWidth 32)) s =
      respond s (prio.setWidth 32) (dst.setWidth 32) (src.setWidth 32) 0 := by
  have hm : markerOk s.cfg (identMarker (svcIdent s.cfg prio s.cfg.svcMarker dst src)) = true := by
    rw [identMarker_svcIdent, markerOk_svcMarker]
  rw [exec_decsvc_ident, if_pos ⟨identDisc_svcIdent .., hm⟩, identPrio_svcIdent, identDst_svcIdent, identSrc_svcIdent]

/-- ENCPUB undoes DECPUB. -/
theorem exec_encpub_of_decpub (h : exec (.decpub v) s = respond s y0 y1 y2 0) :
    exec (.encpub y0 y1 y2) s = respond s v 0 0 0 := by
  obtain ⟨id, rfl, hd, rfl, rfl, rfl⟩ := exec_decpub_success h
  rw [exec_encpub_fields, pubIdent_fields hd]

/-- ENCSVC undoes DECSVC under STRICT_MARKER, where the marker that it packs is the one of the value. -/
theorem exec_encsvc_of_decsvc (hs : s.cfg.strictMarker = true) (h : exec (.decsvc v) s = respond s y0 y1 y2 0) :
    exec (.encsvc y0 y1 y2) s = respond s v 0 0 0 := by
  obtain ⟨id, rfl, hd, hm, rfl, rfl, rfl⟩ := exec_decsvc_success h
  rw [exec_encsvc_fields, ← (markerOk_iff _ _).mp hm hs, svcIdent_fields hd]

/-- Settles O5: each family's two laws, and data-object id 65536 is out of range. -/
theorem codecRoundTrips : Obligations.CodecRoundTrips := by
  refine fun s => ⟨fun a b c ha hb hc => ?pub, fun _ _ => exec_encpub_of_outOfRange (.inr (.inl (by decide))),
    fun a b c ha hb hc => ?svc, fun _ _ _ _ => exec_encpub_of_decpub, fun _ _ _ _ => exec_encsvc_of_decsvc⟩
  case pub =>
    obtain ⟨prio, doid, src, rfl, rfl, rfl⟩ := exists_fields (n := 16) ha (Nat.lt_succ_of_le hb) hc
    exact ⟨_, exec_encpub_fields prio doid src, exec_decpub_pubIdent prio doid src⟩
  case svc =>
    obtain ⟨prio, dst, src, rfl, rfl, rfl⟩ := exists_fields (n := 8) ha (Nat.lt_succ_of_le hb) hc
    exact ⟨_, exec_encsvc_fields prio dst src, exec_decsvc_svcIdent prio dst src⟩

end Sys2Proof.Machine
end

section
/-! PROOFS. The classifier (41_classifier.md): it reads no byte past the length (R120), the order of its checks (R121, R122, R124), and
RXFRAME's report of the errors that CLASSIFY answers (R130, R141), each short Service frame's among them. -/

namespace Sys2Proof.Machine

open Sys2Proof.Spec

variable {p : Config.Params} {s : State} {a b c d : Word} {e : ErrKind}

/-! ### The bytes that the classifier reads -/

theorem byteAt_take {len i : Nat} (hi : i < len) (data : List Byte) : byteAt (data.take len) i = byteAt data i := by
  rw [byteAt, byteAt, List.getD_eq_getElem?_getD, List.getD_eq_getElem?_getD, List.getElem?_take_of_lt hi]

theorem slice_take {len j : Nat} (hj : j ≤ len) (data : List Byte) (i : Nat) : slice (data.take len) i j = slice data i j := by
  rw [slice, slice, List.take_take, Nat.min_eq_left hj]

section Take

variable (prio : BitVec 3) (dst src : BitVec 8) {len : Nat} (data : List Byte)

/-- The payload of a Single frame ends within the length that was checked (R125). -/
theorem classifySingle_take (h0 : 0 < len) :
    classifySingle prio dst src len (data.take len) = classifySingle prio dst src len data := by
  simp only [classifySingle, byteAt_take h0]
  split
  case isTrue => rfl
  case isFalse hlong => rw [slice_take (Nat.not_lt.mp hlong)]

/-- Byte 1 of a First frame is read behind the check of its length (R126). -/
theorem classifyFirst_take : classifyFirst prio dst src len (data.take len) = classifyFirst prio dst src len data := by
  simp only [classifyFirst]
  split
  case isTrue => rfl
  case isFalse hlong =>
    have h2 : 2 ≤ len := Nat.not_lt.mp hlong
    rw [byteAt_take (by omega), byteAt_take (by omega), slice_take (Nat.le_refl len)]

theorem classifyConsecutive_take (h0 : 0 < len) :
    classifyConsecutive prio dst src len (data.take len) = classifyConsecutive prio dst src len data := by
  rw [classifyConsecutive, classifyConsecutive, byteAt_take h0, slice_take (Nat.le_refl len)]

/-- Bytes 1 and 2 of a FlowControl frame are read behind the check of its length (R128). -/
theorem classifyFlow_take : classifyFlow prio dst src len (data.take len) = classifyFlow prio dst src len data := by
  simp only [classifyFlow]
  split
  case isTrue => rfl
  case isFalse hlong =>
    have h3 : 3 ≤ len := Nat.not_lt.mp hlong
    rw [byteAt_take (by omega), byteAt_take (by omega), byteAt_take (by omega)]

/-- A Service frame with no byte is refused before its sub-type is read (R124). -/
theorem classifyService_take : classifyService prio dst src len (data.take len) = classifyService prio dst src len data := by
  rcases Nat.eq_zero_or_pos len with rfl | h0
  · rfl
  · simp only [classifyService, byteAt_take h0, classifySingle_take prio dst src data h0, classifyFirst_take,
      classifyConsecutive_take prio dst src data h0, classifyFlow_take]

end Take

/-- The classifier of a frame is a function of its first len bytes (R120). -/
theorem classifyFrame_take (p : Config.Params) (canId : Word) (len : Nat) (data : List Byte) :
    classifyFrame p canId len (data.take len) = classifyFrame p canId len data := by
  simp only [classifyFrame, slice_take (Nat.le_refl len), classifyService_take]

/-- Settles O15: both frames classify as their common first len bytes do. -/
theorem classifierReadsOnlyLenBytes : Obligations.ClassifierReadsOnlyLenBytes := by
  intro p canId len data data' h
  rw [← classifyFrame_take, h, classifyFrame_take]

/-! ### The order of the checks -/

/-- The length stage comes first (R122). -/
theorem classifyFrame_of_long {len : Nat} (hl : 8 < len) (canId : Word) (data : List Byte) :
    classifyFrame p canId len data = .error .invalidField := if_pos hl

/-- A frame that passes the length stage fails on an identifier of neither family (R121). -/
theorem classifyFrame_of_neither {canId : Word} {len : Nat} (h8 : len ≤ 8) (hp : ¬ isPublication p canId)
    (hs : ¬ isService p canId) (data : List Byte) : classifyFrame p canId len data = .error .malformedIdentifier := by
  obtain ⟨h, -⟩ | ⟨h, -⟩ | ⟨-, -, hi⟩ := identStage_cases p canId
  · exact absurd h hp
  · exact absurd h hs
  · rw [classifyFrame, if_neg (not_maxDlc_lt h8), hi]

/-- A Service frame has no sub-type without a byte 0 (R124). -/
theorem classifyFrame_of_empty {canId : Word} (hs : isService p canId) (data : List Byte) :
    classifyFrame p canId 0 data = .error .truncatedFrame :=
  classifyFrame_of_isService hs (Nat.zero_le 8) data

/-- Settles O16: CLASSIFY answers the error of the first stage that fails. -/
theorem classifyChecksLengthThenIdentifier : Obligations.ClassifyChecksLengthThenIdentifier := by
  refine fun a b c d s => ⟨fun hl => exec_classify_error (classifyFrame_of_long hl a _),
    fun h8 hp hs => exec_classify_error (classifyFrame_of_neither h8 hp hs _), fun h0 hs => exec_classify_error ?_⟩
  rw [h0]
  exact classifyFrame_of_empty hs _

/-! ### The errors of CLASSIFY and of RXFRAME -/

/-- Every variant is answered with success (R130). -/
theorem variantResponse_eq_respond (s : State) (v : Variant) : ∃ y0 y1 y2 y3, variantResponse s v = respond s y0 y1 y2 y3 := by
  cases v <;> exact ⟨_, _, _, _, rfl⟩

/-- CLASSIFY answers an error only when the frame does not classify, and then that one (R130). -/
theorem classifyFrame_of_exec_classify (he : e ≠ .success)
    (h : exec (.classify a b c d) s = .next { s with out := errorAnswer e }) :
    classifyFrame s.cfg a b.toNat (operandData c d) = .error e := by
  cases hv : classifyFrame s.cfg a b.toNat (operandData c d) with
  | error e' =>
    rw [exec_classify_error hv] at h
    have hout : errorAnswer e' = errorAnswer e := congrArg State.out (Host.Outcome.next.inj h)
    cases hout
    rfl
  | ok v =>
    obtain ⟨_, _, _, _, hr⟩ := variantResponse_eq_respond s v
    rw [exec_classify_ok hv, hr] at h
    exact absurd h.symm (raiseCommand_ne_respond he)

/-- Settles O18: both classify the same frame, and RXFRAME reports what does not classify. -/
theorem classifyErrorIsReportedByRxframe : Obligations.ClassifyErrorIsReportedByRxframe := by
  intro a b c d e s hb he hq h
  have hlen : (BitVec.ofNat 8 b.toNat).toNat = b.toNat := by rw [BitVec.toNat_ofNat, Nat.mod_eq_of_lt hb]
  have hv := classifyFrame_of_exec_classify he h
  rw [← hlen] at hv
  obtain ⟨nibble, hreport, -⟩ := errorReportCarriesNibble ⟨a, BitVec.ofNat 8 b.toNat, operandData c d⟩ e s hv hq
  exact ⟨nibble, hreport⟩

/-! ### Service frames shorter than their sub-type needs -/

variable {h : ServiceHead}

/-- The error report of a Service row on an ERRQ with room (R56, R141), with its can_id as a number. -/
theorem reportFrameError_serviceRecord (hq : belowDepth s.cfg.qErr s.errq.length) (e : ErrKind) (nib : BitVec 4)
    (data : List Byte) :
    reportFrameError s e nib (serviceRecord s.cfg h data) =
      .next { s with
        errq := s.errq ++ [⟨e, nib,
          BitVec.ofNat 32 (2 ^ 31 + svcIdNumber s.cfg h.prio.toNat h.marker.toNat h.dst.toNat h.src.toNat), h.len⟩]
        out := .nothing } := by
  rw [reportFrameError_next hq, serviceRecord, extCanId_svcIdent]

/-- A row of 1 to 8 bytes whose classifier fails is reported with the nibble of its byte 0 (R56, R141). -/
theorem receiveService_error (h1 : 1 ≤ h.len.toNat) (h8 : h.len.toNat ≤ 8) (data : List Byte) (e : ErrKind) :
    receiveService s h data (.error e) =
      reportFrameError s e (hiNibble (byteAt data 0)) (serviceRecord s.cfg h data) := by
  rw [receiveService_of_len h1 h8, receive]

/-- A row of no bytes is reported with nibble 0, whatever its classifier finds (R56, R124). -/
theorem receiveService_of_empty (h0 : h.len.toNat = 0) (data : List Byte) (v : Except ErrKind Variant) :
    receiveService s h data v = reportFrameError s .truncatedFrame 0 (serviceRecord s.cfg h data) := by
  have hlen : h.len = 0 := BitVec.eq_of_toNat_eq h0
  simp only [receiveService]
  rw [if_neg (not_maxDlc_lt (h0.trans_le (Nat.zero_le 8))), if_pos hlen]

theorem hiNibble_byteAt_pciByte (nib low : BitVec 4) (rest : List Byte) :
    hiNibble (byteAt (pciByte nib low :: rest) 0) = nib := hiNibble_pciByte nib low

theorem loNibble_byteAt_pciByte (nib low : BitVec 4) (rest : List Byte) :
    loNibble (byteAt (pciByte nib low :: rest) 0) = low := loNibble_pciByte nib low

/-- Settles O29: the row's classifier fails below its minimum length, and the report carries the row's nibble. -/
theorem shortServiceFramesReported : Obligations.ShortServiceFramesReported := by
  intro h s hq
  refine ⟨fun data h0 => ?empty, fun sfDl rest h1 hshort h8 => ?single, fun ffDl rest hl => ?first,
    fun fs bs st rest hl => ?flow⟩
  case empty => exact (receiveService_of_empty h0 data _).trans (reportFrameError_serviceRecord hq _ _ _)
  case single =>
    simp only [exec, execPciSf, classifySingle, loNibble_byteAt_pciByte]
    rw [if_pos hshort, receiveService_error h1 h8, hiNibble_byteAt_pciByte, reportFrameError_serviceRecord hq]
  case first =>
    simp only [exec, execPciFf, classifyFirst]
    rw [if_pos (by omega), receiveService_error (by omega) (by omega), hiNibble_byteAt_pciByte,
      reportFrameError_serviceRecord hq]
  case flow =>
    simp only [exec, execPciFc, classifyFlow]
    rw [if_pos (by omega), receiveService_error (by omega) (by omega), hiNibble_byteAt_pciByte,
      reportFrameError_serviceRecord hq]

end Sys2Proof.Machine
end

section
/-! PROOFS. The receive path (42_reassembly.md): the rows of an arriving frame and RXFRAME (R140), the arms of a classified frame (R142 to
R149), that every frame is taken, what changes the reassembly context (R151), and the reassembly of a whole send (R152). -/

namespace Sys2Proof.Machine

open Sys2Proof.Spec

variable {p : Config.Params} {s t : State} {h : ServiceHead}

/-! ### RXFRAME on the frame of a row -/

/-- RXFRAME of an over-long record (R122). -/
theorem exec_rxframe_of_long {r : FrameRecord} (h8 : 8 < r.len.toNat) :
    exec (.rxframe r) s = reportFrameError s .invalidField 0 r := by
  rw [exec_rxframe_of_classifyFrame (classifyFrame_of_long h8 _ _), errorNibble_eq_zero (.inr (.inr h8)), receive]

/-- An over-long Service row is reported, whatever its classifier finds (R122). -/
theorem receiveService_of_long (h8 : 8 < h.len.toNat) (data : List Byte) (v : Except ErrKind Variant) :
    receiveService s h data v = reportFrameError s .invalidField 0 (serviceRecord s.cfg h data) := if_pos h8

/-- The record of a well-formed head is a Service frame (R121). -/
theorem isService_serviceRecord (hp : p.wf) (hh : h.wf p = true) (data : List Byte) :
    isService p (serviceRecord p h data).canId := by
  have hi : identStage p (serviceRecord p h data).canId = .ok (.svc h.prio h.dst h.src) :=
    identStage_svcIdent hp.1 _ _ _ (ServiceHead.markerOk_of_wf hh)
  obtain ⟨-, hpub⟩ | ⟨hs, -⟩ | ⟨-, -, herr⟩ := identStage_cases p (serviceRecord p h data).canId
  · cases hi.symm.trans hpub
  · exact hs
  · cases hi.symm.trans herr

/-- RXFRAME of a Service frame is the row ID_SVC (R124, R140). -/
theorem exec_rxframe_serviceRecord (hp : s.cfg.wf) (hh : h.wf s.cfg = true) (data : List Byte) :
    exec (.rxframe (serviceRecord s.cfg h data)) s = exec (.idSvc h data) s := by
  have hs := isService_serviceRecord hp hh data
  by_cases h8 : 8 < h.len.toNat
  · exact (exec_rxframe_of_long h8).trans (receiveService_of_long h8 data _).symm
  have h8 : h.len.toNat ≤ 8 := Nat.not_lt.mp h8
  have hv := classifyFrame_svcIdent hp.1 h.prio h.dst h.src (ServiceHead.markerOk_of_wf hh) h8 data
  rw [exec_rxframe_of_classifyFrame hv]
  simp only [exec, execIdSvc]
  rcases Nat.eq_zero_or_pos h.len.toNat with h0 | h1
  · rw [receiveService_of_empty h0, errorNibble_eq_zero (.inr (.inl h0)), classifyService, if_pos h0, receive]
  · rw [receiveService_of_len h1 h8, errorNibble_of_service hs h1 h8]
    rfl

/-- A Service row whose classifier is the one of its byte 0 is the row ID_SVC (R124). -/
theorem receiveService_eq_idSvc {data : List Byte} {v : Except ErrKind Variant}
    (hv : h.len.toNat ≠ 0 → classifyService h.prio h.dst h.src h.len.toNat data = v) :
    receiveService s h data v = exec (.idSvc h data) s := by
  simp only [exec, execIdSvc]
  by_cases h0 : h.len.toNat = 0
  · rw [receiveService_of_empty h0, receiveService_of_empty h0]
  · rw [hv h0]

section Rows

variable (h : ServiceHead) (rest : List Byte) (s : State)

theorem exec_pciSf_eq_idSvc (sfDl : BitVec 4) :
    exec (.pciSf h sfDl rest) s = exec (.idSvc h (pciByte 0x0 sfDl :: rest)) s :=
  receiveService_eq_idSvc fun hl => classifyService_of_single hl (by rw [hiNibble_byteAt_pciByte]; rfl)

theorem exec_pciFf_eq_idSvc (ffDl : BitVec 12) :
    exec (.pciFf h ffDl rest) s =
      exec (.idSvc h (pciByte 0x1 (ffDl.extractLsb' 8 4) :: ffDl.extractLsb' 0 8 :: rest)) s :=
  receiveService_eq_idSvc fun hl => classifyService_of_first hl (by rw [hiNibble_byteAt_pciByte]; rfl)

theorem exec_pciCf_eq_idSvc (sn : BitVec 4) :
    exec (.pciCf h sn rest) s = exec (.idSvc h (pciByte 0x2 sn :: rest)) s :=
  receiveService_eq_idSvc fun hl => classifyService_of_consecutive hl (by rw [hiNibble_byteAt_pciByte]; rfl)

theorem exec_pciFc_eq_idSvc (fs : BitVec 4) (bs st : Byte) :
    exec (.pciFc h fs bs st rest) s = exec (.idSvc h (pciByte 0x3 fs :: bs :: st :: rest)) s :=
  receiveService_eq_idSvc fun hl => classifyService_of_flow hl (by rw [hiNibble_byteAt_pciByte]; rfl)

theorem exec_pciReserved_eq_idSvc {nib : BitVec 4} (hn : 4 ≤ nib.toNat) (low : BitVec 4) :
    exec (.pciReserved h nib low rest) s = exec (.idSvc h (pciByte nib low :: rest)) s :=
  receiveService_eq_idSvc fun hl => classifyService_of_reserved hl (by rwa [hiNibble_byteAt_pciByte])

end Rows

/-! ### The frame of a row, from its numbers -/

/-- A PCI byte of a given sub-type from its number (R74). -/
theorem ofNat_eq_pciByte {n : Nat} (nib low : BitVec 4) (hn : n = 16 * nib.toNat) :
    BitVec.ofNat 8 (n + low.toNat) = pciByte nib low := by
  rw [hn, ← pciByte_toNat, BitVec.ofNat_toNat, BitVec.setWidth_eq]

/-- The frame of a Service row is the record of its head (R52, R72). -/
theorem svcFrame_eq_serviceRecord (p : Config.Params) (h : ServiceHead) (data : List Byte) :
    rowFrame.svcFrame p h data = serviceRecord p h data := by
  rw [rowFrame.svcFrame, extCanId_svcIdent]
  rfl

section RowFrames

variable (p : Config.Params) (h : ServiceHead) (rest : List Byte)

theorem rowFrame_pciSf (sfDl : BitVec 4) :
    rowFrame p (.pciSf h sfDl rest) = some (serviceRecord p h (pciByte 0x0 sfDl :: rest)) := by
  rw [rowFrame, svcFrame_eq_serviceRecord, ← ofNat_eq_pciByte (n := 0) 0x0 sfDl rfl, Nat.zero_add]

theorem rowFrame_pciFf (ffDl : BitVec 12) :
    rowFrame p (.pciFf h ffDl rest) =
      some (serviceRecord p h (pciByte 0x1 (ffDl.extractLsb' 8 4) :: ffDl.extractLsb' 0 8 :: rest)) := by
  have hlt := ffDl.isLt
  have hhi : (ffDl.extractLsb' 8 4).toNat = ffDl.toNat / 256 := by rw [toNat_slice]; omega
  have hlo : BitVec.ofNat 8 (ffDl.toNat % 256) = ffDl.extractLsb' 0 8 := by
    apply BitVec.eq_of_toNat_eq
    rw [toNat_slice, BitVec.toNat_ofNat]
    omega
  rw [rowFrame, svcFrame_eq_serviceRecord, hlo, ← hhi, ofNat_eq_pciByte (n := 0x10) 0x1 _ rfl]

theorem rowFrame_pciCf (sn : BitVec 4) :
    rowFrame p (.pciCf h sn rest) = some (serviceRecord p h (pciByte 0x2 sn :: rest)) := by
  rw [rowFrame, svcFrame_eq_serviceRecord, ofNat_eq_pciByte (n := 0x20) 0x2 sn rfl]

theorem rowFrame_pciFc (fs : BitVec 4) (bs st : Byte) :
    rowFrame p (.pciFc h fs bs st rest) = some (serviceRecord p h (pciByte 0x3 fs :: bs :: st :: rest)) := by
  rw [rowFrame, svcFrame_eq_serviceRecord, ofNat_eq_pciByte (n := 0x30) 0x3 fs rfl]

theorem rowFrame_pciReserved (nib low : BitVec 4) :
    rowFrame p (.pciReserved h nib low rest) = some (serviceRecord p h (pciByte nib low :: rest)) := by
  rw [rowFrame, svcFrame_eq_serviceRecord, ofNat_eq_pciByte nib low rfl]

end RowFrames

/-- RXFRAME of a Publication frame is the row ID_PUB (R123, R140). -/
theorem exec_rxframe_pubIdent (prio : BitVec 3) (doid : BitVec 16) (src : BitVec 8) (len : Byte) (data : List Byte) :
    exec (.rxframe ⟨extCanId (pubIdent s.cfg prio doid src), len, data⟩) s = exec (.idPub prio doid src len data) s := by
  simp only [exec, execIdPub]
  by_cases h8 : Config.maxDlc < len.toNat
  · rw [if_pos h8]
    exact exec_rxframe_of_long h8
  · rw [if_neg h8]
    simp [execRxframe, classifyFrame, errorNibble, h8]

/-- RXFRAME of a frame of neither family is the row ID_RESERVED_DISC (R79, R121). -/
theorem exec_rxframe_reservedIdent {disc : BitVec 2} (hpub : disc ≠ s.cfg.pubDisc) (hsvc : disc ≠ s.cfg.svcDisc) (prio : BitVec 3)
    (low : BitVec 24) (len : Byte) (data : List Byte) :
    exec (.rxframe ⟨extCanId (prio ++ disc ++ low : Ident), len, data⟩) s = exec (.idReservedDisc prio disc low len data) s := by
  simp only [exec, execIdReservedDisc]
  by_cases h8 : Config.maxDlc < len.toNat
  · rw [if_pos h8]
    exact exec_rxframe_of_long h8
  · rw [if_neg h8]
    simp [execRxframe, classifyFrame, errorNibble, h8, identStage_reservedIdent prio low hpub hsvc, receive]

/-- A row that is ID_SVC of some data bytes, and whose frame is their record, is RXFRAME of its frame (R124, R140). -/
theorem exec_eq_rxframe_of_idSvc {i : Instr} {r : FrameRecord} {data : List Byte} (hp : s.cfg.wf) (hh : h.wf s.cfg = true)
    (hf : rowFrame s.cfg i = some (serviceRecord s.cfg h data)) (he : exec i s = exec (.idSvc h data) s)
    (hr : rowFrame s.cfg i = some r) : exec i s = exec (.rxframe r) s := by
  obtain rfl := Option.some.inj (hf.symm.trans hr)
  rw [he, exec_rxframe_serviceRecord hp hh]

/-- Settles O20: each row's frame on numbers is its record, and a Service row is ID_SVC of its data bytes. -/
theorem arrivalRowsAgreeWithRxframe : Obligations.ArrivalRowsAgreeWithRxframe := by
  intro i r s hp hw hr
  cases i with
  | rxframe rec =>
    cases hr
    rfl
  | idPub prio doid src len data =>
    rw [rowFrame, extCanId_pubIdent] at hr
    cases hr
    exact (exec_rxframe_pubIdent prio doid src len data).symm
  | idReservedDisc prio disc low len data =>
    rw [rowFrame, extCanId_reservedIdent] at hr
    cases hr
    simp only [Instr.wf, Bool.and_eq_true, bne_iff_ne] at hw
    exact (exec_rxframe_reservedIdent hw.1.1 hw.1.2 prio low len data).symm
  | idSvc h data =>
    have hh := (Bool.and_eq_true_iff.mp hw).1
    exact exec_eq_rxframe_of_idSvc hp hh (congrArg some (svcFrame_eq_serviceRecord _ h data)) rfl hr
  | pciSf h sfDl rest =>
    have hh := (Bool.and_eq_true_iff.mp hw).1
    exact exec_eq_rxframe_of_idSvc hp hh (rowFrame_pciSf _ h rest sfDl) (exec_pciSf_eq_idSvc h rest s sfDl) hr
  | pciFf h ffDl rest =>
    have hh := (Bool.and_eq_true_iff.mp hw).1
    exact exec_eq_rxframe_of_idSvc hp hh (rowFrame_pciFf _ h rest ffDl) (exec_pciFf_eq_idSvc h rest s ffDl) hr
  | pciCf h sn rest =>
    have hh := (Bool.and_eq_true_iff.mp hw).1
    exact exec_eq_rxframe_of_idSvc hp hh (rowFrame_pciCf _ h rest sn) (exec_pciCf_eq_idSvc h rest s sn) hr
  | pciFc h fs bs st rest =>
    have hh := (Bool.and_eq_true_iff.mp hw).1
    exact exec_eq_rxframe_of_idSvc hp hh (rowFrame_pciFc _ h rest fs bs st) (exec_pciFc_eq_idSvc h rest s fs bs st) hr
  | pciReserved h nib low rest =>
    simp only [Instr.wf, Bool.and_eq_true, decide_eq_true_eq, BitVec.le_def] at hw
    obtain ⟨⟨hh, hn⟩, -⟩ := hw
    exact exec_eq_rxframe_of_idSvc hp hh (rowFrame_pciReserved _ h rest nib low)
      (exec_pciReserved_eq_idSvc h rest s hn low) hr
  | _ => cases hr

/-! ### The arms of a classified frame -/

theorem slice_eq_take (data : List Byte) (i j : Nat) : slice data i j = (data.drop i).take (j - i) := List.drop_take

/-- The delivery of a message on a MSGQ with room, on the state's fields (R58). -/
theorem deliver_next (hq : belowDepth s.cfg.qMsg s.msgq.length) (m : Message) :
    deliver s m = .next { s with msgq := s.msgq ++ [m], out := .nothing } := if_pos ((hasRoom_iff _ _).mpr hq)

/-- Settles O21: a Publication frame classifies as its first len bytes, and its arm delivers them. -/
theorem publicationFrameDelivered : Obligations.PublicationFrameDelivered := by
  intro prio doid src len data s h8 hd hq
  have hlen : (data.take len.toNat).length = len.toNat := List.length_take_of_le (by omega)
  simp only [exec, execIdPub]
  rw [if_neg (not_maxDlc_lt h8), slice_zero, receive, deliver_next hq, hlen]

/-! Each Service row of at least its sub-type's minimum length runs its arm on its own fields (R125 to R128). -/

theorem exec_pciSf_of_len {sfDl : BitVec 4} (hl : 1 + sfDl.toNat ≤ h.len.toNat) (h8 : h.len.toNat ≤ 8) (rest : List Byte) :
    exec (.pciSf h sfDl rest) s =
      deliver s ⟨.service, h.prio, h.dst.setWidth 16, h.src, BitVec.ofNat 12 (rest.take sfDl.toNat).length,
        rest.take sfDl.toNat⟩ := by
  simp only [exec, execPciSf, classifySingle, loNibble_byteAt_pciByte]
  rw [if_neg (Nat.not_lt.mpr hl), receiveService_of_len (by omega) h8, slice_eq_take, Nat.add_sub_cancel_left]
  rfl

theorem exec_pciFf_of_len (h2 : 2 ≤ h.len.toNat) (h8 : h.len.toNat ≤ 8) (ffDl : BitVec 12) (rest : List Byte) :
    exec (.pciFf h ffDl rest) s = armFirst s h.prio h.dst h.src ffDl (rest.take (h.len.toNat - 2)) := by
  have hb : byteAt (pciByte 0x1 (ffDl.extractLsb' 8 4) :: ffDl.extractLsb' 0 8 :: rest) 1 = ffDl.extractLsb' 0 8 := rfl
  simp only [exec, execPciFf, classifyFirst, loNibble_byteAt_pciByte, hb, ffDl_slices]
  rw [if_neg (Nat.not_lt.mpr h2), receiveService_of_len (by omega) h8, slice_eq_take]
  rfl

theorem exec_pciCf_of_len (h1 : 1 ≤ h.len.toNat) (h8 : h.len.toNat ≤ 8) (sn : BitVec 4) (rest : List Byte) :
    exec (.pciCf h sn rest) s = armConsecutive s sn (rest.take (h.len.toNat - 1)) := by
  simp only [exec, execPciCf, classifyConsecutive, loNibble_byteAt_pciByte]
  rw [receiveService_of_len h1 h8, slice_eq_take]
  rfl

theorem exec_pciFc_of_len (h3 : 3 ≤ h.len.toNat) (h8 : h.len.toNat ≤ 8) (fs : BitVec 4) (bs st : Byte) (rest : List Byte) :
    exec (.pciFc h fs bs st rest) s = armFlow s fs bs st := by
  simp only [exec, execPciFc, classifyFlow, loNibble_byteAt_pciByte]
  rw [if_neg (Nat.not_lt.mpr h3), receiveService_of_len (by omega) h8]
  rfl

/-- Settles O23: the arm of a Single frame delivers its payload. -/
theorem singleFrameDelivered : Obligations.SingleFrameDelivered := by
  intro h sfDl rest s hr hl h8 hq
  have hlen : (rest.take sfDl.toNat).length = sfDl.toNat := List.length_take_of_le (by omega)
  rw [exec_pciSf_of_len hl h8, deliver_next hq, hlen, BitVec.ofNat_toNat 16]

/-- Settles O26: the acceptance test fails, and then the frame is dropped. -/
theorem unexpectedConsecutiveFrameDropped : Obligations.UnexpectedConsecutiveFrameDropped := by
  intro h sn rest s h1 h8 hn
  have ha : ¬ s.ra.accepts sn = true := by
    rw [Reassembly.accepts_iff]
    rintro ⟨hact, hsn⟩
    exact hn.elim (fun hidle => by simp [hidle] at hact) fun hne => hne hsn
  rw [exec_pciCf_of_len h1 h8, armConsecutive, if_neg ha]
  rfl

/-- Settles O27: the condition of the arm is the one that says whether a tuple is accepted. -/
theorem flowControlFrameStoredWhileWaiting : Obligations.FlowControlFrameStoredWhileWaiting := by
  intro h fs bs st rest s h3 h8
  rw [exec_pciFc_of_len h3 h8, armFlow]
  simp only [← State.acceptsFlow_iff]
  split <;> rfl

/-! ### The buffer under a run of bytes -/

/-- A run written at an index is read back there. -/
theorem Memory.read_writeBytes_inside (m : Memory) (c : Nat) {bs : List Byte} {i : Nat} (hi : i < bs.length) :
    Memory.read (Memory.writeBytes m c bs) (c + i) = bs[i]? := by
  rw [Memory.read_writeBytes, if_pos (by omega), Nat.add_sub_cancel_left]

/-- A run written at an index leaves every byte before and after it alone. -/
theorem Memory.read_writeBytes_outside (m : Memory) {c j : Nat} {bs : List Byte} (hj : j < c ∨ c + bs.length ≤ j) :
    Memory.read (Memory.writeBytes m c bs) j = Memory.read m j := by
  rw [Memory.read_writeBytes, if_neg (by omega)]

/-! ### A First frame -/

/-- The Continue reply carries the First frame's addresses swapped (R144). -/
theorem transmits_flowReply (p : Config.Params) (prio : BitVec 3) (dst src : BitVec 8) :
    Transmits (flowReply p prio dst src) (svcIdNumber p prio.toNat p.svcMarker.toNat src.toNat dst.toNat) [0x30, 0x00, 0x00] := by
  rw [svcIdNumber, ← svcIdent_toNat]
  exact transmits_outFrame _ _ (by decide)

/-- Settles O24: the arm of a First frame writes its payload up to the declared size at the start of RA_BUF. -/
theorem firstFrameStartsTransfer : Obligations.FirstFrameStartsTransfer := by
  intro h ffDl rest s hr h2 h8 hq k
  have hlen : (rest.take (h.len.toNat - 2)).length = h.len.toNat - 2 := List.length_take_of_le (by omega)
  have hk : k ≤ h.len.toNat - 2 := Nat.min_le_left _ _
  have hbytes : (rest.take k).length = k := List.length_take_of_le (by omega)
  have hroom : s.txqRoom = true := (hasRoom_iff _ _).mpr hq
  refine ⟨Memory.writeBytes s.ra.buf 0 (rest.take k), flowReply s.cfg h.prio h.dst h.src, ?_, fun i hi => ?_, fun i hi => ?_,
    transmits_flowReply _ _ _ _⟩
  · rw [exec_pciFf_of_len h2 h8, armFirst, if_pos hroom]
    simp only [hlen, List.take_take, Nat.min_eq_left (Nat.min_le_left _ _)]
    rfl
  · have hread := Memory.read_writeBytes_inside s.ra.buf 0 (hi.trans_eq hbytes.symm)
    rwa [Nat.zero_add, List.getElem?_take_of_lt hi] at hread
  · exact Memory.read_writeBytes_outside _ (.inr (by omega))

/-! ### A Consecutive frame -/

/-- A Consecutive frame before the last bytes of its message only appends (R146). -/
theorem armConsecutive_of_more {sn : BitVec 4} {payload : List Byte} (ha : s.ra.accepts sn = true)
    (hl : s.ra.count.toNat + payload.length < s.ra.size.toNat) :
    armConsecutive s sn payload = .next ((s.withRa (s.ra.append sn payload)).withOut .nothing) := by
  have hcount : (s.ra.append sn payload).count ≠ s.ra.size := by
    rw [ne_eq, ← BitVec.toNat_inj, Reassembly.append_count_toNat (by omega)]
    omega
  rw [armConsecutive, if_pos ha, if_neg hcount]

/-- A transfer whose bytes are written is handed off on a MSGQ with room (R146). -/
theorem completeTransfer_of_readBytes {ra : Reassembly} {bytes : List Byte} (hq : s.msgqRoom = true)
    (hb : Memory.readBytes ra.buf 0 ra.size.toNat = some bytes) :
    completeTransfer s ra =
      .next (((s.withRa { ra with active := false }).pushMsgq (ra.message bytes)).withOut .nothing) := by
  rw [completeTransfer, if_pos hq, hb]

/-- The bytes of a buffer written below an index, read one by one. -/
theorem Memory.exists_bytes {m : Memory} {n : Nat} (hw : m.writtenBelow n) :
    ∃ bytes, Memory.readBytes m 0 n = some bytes ∧ bytes.length = n ∧ ∀ i, i < n → bytes[i]? = Memory.read m i := by
  obtain ⟨bytes, hb⟩ := Memory.exists_readBytes hw (i := 0) (k := n) (Nat.zero_add n).le
  obtain ⟨hl, hr⟩ := (Memory.readBytes_eq_some_iff m 0 n bytes).mp hb
  refine ⟨bytes, hb, hl, fun i hi => ?_⟩
  rw [← hr i hi, Nat.zero_add]

/-- Settles O25: the arm of an accepted Consecutive frame, below the declared size and at it. -/
theorem expectedConsecutiveFrameAppends : Obligations.ExpectedConsecutiveFrameAppends := by
  intro h sn rest s hr h1 h8 hact hsn hc k
  have ha := (s.ra.accepts_iff sn).mpr ⟨hact, hsn⟩
  have hlen : (rest.take (h.len.toNat - 1)).length = h.len.toNat - 1 := List.length_take_of_le (by omega)
  have hk : k ≤ h.len.toNat - 1 := Nat.min_le_left _ _
  have hbytes : (rest.take k).length = k := List.length_take_of_le (by omega)
  have happ : s.ra.append sn (rest.take (h.len.toNat - 1)) =
      { s.ra with
        count := BitVec.ofNat 12 (s.ra.count.toNat + k)
        lastIdx := sn
        buf := Memory.writeBytes s.ra.buf s.ra.count.toNat (rest.take k) } := by
    simp only [Reassembly.append, hlen, List.take_take, Nat.min_eq_left (Nat.min_le_left _ _)]
    rfl
  refine ⟨Memory.writeBytes s.ra.buf s.ra.count.toNat (rest.take k), fun i hi => ?_, fun i hi => ?_, fun hmore => ?_,
    fun hlast hw hq => ?_⟩
  · rw [Memory.read_writeBytes_inside _ _ (hi.trans_eq hbytes.symm), List.getElem?_take_of_lt hi]
  · exact Memory.read_writeBytes_outside _ (hi.imp_right fun hi => by omega)
  · rw [exec_pciCf_of_len h1 h8, armConsecutive_of_more ha (by omega), happ]
    rfl
  · have hw' : Memory.writtenBelow (Memory.writeBytes s.ra.buf s.ra.count.toNat (rest.take k)) s.ra.size.toNat :=
      Memory.writtenBelow_writeBytes hw (by omega)
    obtain ⟨bytes, hb, hbl, hbr⟩ := Memory.exists_bytes hw'
    refine ⟨bytes, hbl, hbr, ?_⟩
    rw [exec_pciCf_of_len h1 h8, armConsecutive_of_last ha hc (by omega), happ,
      completeTransfer_of_readBytes ((hasRoom_iff _ _).mpr hq) hb, hlast, BitVec.ofNat_toNat 12, BitVec.setWidth_eq,
      BitVec.ofNat_toNat 16]
    rfl

/-! ### Every frame is taken -/

/-- The three queues take one more entry each (R58). -/
structure State.QueuesHaveRoom (s : State) : Prop where
  txq : s.txqRoom = true
  msgq : s.msgqRoom = true
  errq : s.errqRoom = true

/-- An arrival is taken: it answers a next state and is not held (R140). -/
def Taken (o : Result) : Prop := ∃ t, o = .next t ∧ t.out = .nothing

theorem taken_reportFrameError (hq : s.QueuesHaveRoom) (e : ErrKind) (nibble : BitVec 4) (r : FrameRecord) :
    Taken (reportFrameError s e nibble r) := ⟨_, if_pos hq.errq, rfl⟩

theorem taken_deliver (hq : s.QueuesHaveRoom) (m : Message) : Taken (deliver s m) := ⟨_, if_pos hq.msgq, rfl⟩

theorem taken_armFirst (hq : s.QueuesHaveRoom) (prio : BitVec 3) (dst src : BitVec 8) (ffDl : BitVec 12) (payload : List Byte) :
    Taken (armFirst s prio dst src ffDl payload) := ⟨_, if_pos hq.txq, rfl⟩

/-- A completed transfer is handed off: its bytes are written (R27, R146). -/
theorem taken_completeTransfer (hq : s.QueuesHaveRoom) {ra : Reassembly} (hra : ra.Ok) (hc : ra.count = ra.size) :
    Taken (completeTransfer s ra) := by
  obtain ⟨bytes, hb, -⟩ := Memory.exists_bytes (hc ▸ hra.written)
  exact ⟨_, completeTransfer_of_readBytes hq.msgq hb, rfl⟩

theorem taken_armConsecutive (hra : s.ra.Ok) (hq : s.QueuesHaveRoom) (sn : BitVec 4) (payload : List Byte) :
    Taken (armConsecutive s sn payload) := by
  unfold armConsecutive
  split
  case isTrue =>
    split
    case isTrue hc => exact taken_completeTransfer hq (Reassembly.append_ok sn payload hra) hc
    case isFalse => exact ⟨_, rfl, rfl⟩
  case isFalse => exact ⟨_, rfl, rfl⟩

theorem taken_armFlow (s : State) (fs : BitVec 4) (bs st : Byte) : Taken (armFlow s fs bs st) := by
  unfold armFlow
  split <;> exact ⟨_, rfl, rfl⟩

/-- Every arm takes its frame, whatever the classification. -/
theorem taken_receive (hra : s.ra.Ok) (hq : s.QueuesHaveRoom) (r : FrameRecord) (nibble : BitVec 4) :
    (v : Except ErrKind Variant) → Taken (receive s r nibble v)
  | .error e => taken_reportFrameError hq e nibble r
  | .ok (.pubSingle _ _ _ _) => taken_deliver hq _
  | .ok (.svcSingle _ _ _ _) => taken_deliver hq _
  | .ok (.svcFirst prio dst src ffDl payload) => taken_armFirst hq prio dst src ffDl payload
  | .ok (.svcConsecutive _ _ _ sn payload) => taken_armConsecutive hra hq sn payload
  | .ok (.svcFlowControl _ _ _ fs bs st) => taken_armFlow s fs bs st

theorem taken_receiveService (hra : s.ra.Ok) (hq : s.QueuesHaveRoom) (h : ServiceHead) (data : List Byte)
    (v : Except ErrKind Variant) : Taken (receiveService s h data v) := by
  simp only [receiveService]
  split
  case isTrue => exact taken_reportFrameError hq _ _ _
  case isFalse =>
    split
    case isTrue => exact taken_reportFrameError hq _ _ _
    case isFalse => exact taken_receive hra hq _ _ v

/-- Settles O30: a row is a report or runs an arm, and each of them takes its frame. -/
theorem everyArrivalIsTaken : Obligations.EveryArrivalIsTaken := by
  intro i s hi hinv htx hmsg herr
  have hq : s.QueuesHaveRoom := ⟨(hasRoom_iff _ _).mpr htx, (hasRoom_iff _ _).mpr hmsg, (hasRoom_iff _ _).mpr herr⟩
  cases i with
  | rxframe r => exact taken_receive hinv.ra hq _ _ _
  | idPub prio doid src len data =>
    simp only [exec, execIdPub]
    split
    case isTrue => exact taken_reportFrameError hq _ _ _
    case isFalse => exact taken_deliver hq _
  | idReservedDisc prio disc low len data =>
    simp only [exec, execIdReservedDisc]
    split <;> exact taken_reportFrameError hq _ _ _
  | idSvc | pciSf | pciFf | pciCf | pciFc | pciReserved => exact taken_receiveService hinv.ra hq _ _ _
  | _ => cases hi

/-! ### What changes the reassembly context -/

/-- A report leaves the reassembly context alone (R217). -/
theorem reportFrameError_ra {e : ErrKind} {nibble : BitVec 4} {r : FrameRecord} (ht : reportFrameError s e nibble r = .next t) :
    t.ra = s.ra := by
  unfold reportFrameError at ht
  split at ht <;> cases ht <;> rfl

/-- The delivery of a single frame leaves the reassembly context alone (R142, R149). -/
theorem deliver_ra {m : Message} (ht : deliver s m = .next t) : t.ra = s.ra := by
  unfold deliver at ht
  split at ht <;> cases ht <;> rfl

/-- A FlowControl frame leaves the reassembly context alone (R148). -/
theorem armFlow_ra {fs : BitVec 4} {bs st : Byte} (ht : armFlow s fs bs st = .next t) : t.ra = s.ra := by
  unfold armFlow at ht
  split at ht <;> cases ht <;> rfl

/-- A Consecutive frame that is not expected leaves the reassembly context alone (R147). -/
theorem armConsecutive_ra {sn : BitVec 4} {payload : List Byte} (ht : armConsecutive s sn payload = .next t) :
    s.ra.accepts sn = true ∨ t.ra = s.ra := by
  unfold armConsecutive at ht
  split at ht
  case isTrue ha => exact .inl ha
  case isFalse =>
    cases ht
    exact .inr rfl

/-- A frame that changes the reassembly context is a First frame or an expected Consecutive frame (R151). -/
theorem receive_changes_ra {r : FrameRecord} {nibble : BitVec 4} {v : Except ErrKind Variant}
    (ht : receive s r nibble v = .next t) (hne : t.ra ≠ s.ra) :
    (∃ prio dst src ffDl payload, v = .ok (.svcFirst prio dst src ffDl payload)) ∨
      ∃ prio dst src sn payload, s.ra.accepts sn = true ∧ v = .ok (.svcConsecutive prio dst src sn payload) := by
  match v with
  | .error e => exact absurd (reportFrameError_ra ht) hne
  | .ok (.pubSingle _ _ _ _) => exact absurd (deliver_ra ht) hne
  | .ok (.svcSingle _ _ _ _) => exact absurd (deliver_ra ht) hne
  | .ok (.svcFirst prio dst src ffDl payload) => exact .inl ⟨prio, dst, src, ffDl, payload, rfl⟩
  | .ok (.svcConsecutive prio dst src sn payload) =>
    exact .inr ⟨prio, dst, src, sn, payload, (armConsecutive_ra ht).resolve_right hne, rfl⟩
  | .ok (.svcFlowControl _ _ _ _ _ _) => exact absurd (armFlow_ra ht) hne

/-- A message that comes with a change of the reassembly context is a completed transfer's, of RA_SIZE bytes (R146). -/
theorem Effect.message_of_ra_ne {i : Instr} {m : Message} (h : Effect s i t) (hne : t.ra ≠ s.ra)
    (hm : t.msgq = s.msgq ++ [m]) : m.bytes.length = s.ra.size.toNat ∧ m.len = s.ra.size := by
  cases h with
  | complete _ _ _ bytes _ _ _ hb =>
    obtain rfl := List.singleton_inj.mp (List.append_cancel_left hm)
    exact ⟨((Memory.readBytes_eq_some_iff _ _ _ _).mp hb).1, rfl⟩
  | first | append => exact absurd (List.self_eq_append_right.mp hm) (List.cons_ne_nil _ _)
  | reset => exact absurd hm.symm (List.append_ne_nil_of_right_ne_nil _ (List.cons_ne_nil _ _))
  | _ => exact absurd rfl hne

/-- Every instruction keeps RA_COUNT within RA_SIZE (R25). -/
theorem Effect.keeps_count {i : Instr} (h : Effect s i t) (hc : s.ra.count.toNat ≤ s.ra.size.toNat) :
    t.ra.count.toNat ≤ t.ra.size.toNat := by
  cases h with
  | first _ _ _ _ _ ffDl payload =>
    have hlt := ffDl.isLt
    show (BitVec.ofNat 12 (min payload.length ffDl.toNat)).toNat ≤ ffDl.toNat
    rw [BitVec.toNat_ofNat]
    omega
  | append _ sn payload | complete _ sn payload =>
    show (s.ra.append sn payload).count.toNat ≤ s.ra.size.toNat
    rw [Reassembly.append_count_toNat hc]
    exact Nat.min_le_right _ _
  | reset => exact Nat.le_refl 0
  | _ => exact hc

/-- Settles O32: by the arms of a classified frame, and by what the effects of an instruction write. -/
theorem onlySegmentsChangeReassembly : Obligations.OnlySegmentsChangeReassembly := by
  intro r s t ht
  have he := exec_effect ht
  refine ⟨fun hne => ?_, fun m hne hm => he.message_of_ra_ne hne hm, he.keeps_count⟩
  refine (receive_changes_ra ht hne).imp_right fun ⟨prio, dst, src, sn, payload, ha, hv⟩ => ?_
  obtain ⟨hact, hsn⟩ := (Reassembly.accepts_iff _ _).mp ha
  exact ⟨hact, prio, dst, src, sn, payload, hsn, hv⟩

/-! ### The frames of a send -/

/-- The record of a send's frame with these data bytes, padded to eight (R52). -/
def segmentRecord (id : Nat) (bytes : List Byte) : FrameRecord :=
  ⟨BitVec.ofNat 32 (2 ^ 31 + id), BitVec.ofNat 8 bytes.length, bytes ++ List.replicate (8 - bytes.length) 0⟩

theorem segments_eq_map (id : Nat) (payload : List Byte) :
    segments id payload = (segmentBytes payload).map (segmentRecord id) := rfl

/-- The head of a frame of a send with n data bytes, under SVC_MARKER. -/
def segmentHead (p : Config.Params) (prio : BitVec 3) (dst src : BitVec 8) (n : Nat) : ServiceHead :=
  ⟨prio, p.svcMarker, dst, src, BitVec.ofNat 8 n⟩

theorem segmentHead_wf (p : Config.Params) (prio : BitVec 3) (dst src : BitVec 8) (n : Nat) :
    (segmentHead p prio dst src n).wf p = true := by
  simp [segmentHead, ServiceHead.wf]

theorem segmentHead_len {p : Config.Params} {prio : BitVec 3} {dst src : BitVec 8} {n : Nat} (hn : n ≤ 8) :
    (segmentHead p prio dst src n).len.toNat = n := by
  rw [segmentHead, BitVec.toNat_ofNat]
  omega

/-- Behind its PCI byte a record of a send holds seven bytes (R52). -/
theorem padded_length {chunk : List Byte} (hl : chunk.length ≤ 7) :
    (chunk ++ List.replicate (8 - (chunk.length + 1)) (0 : Byte)).length = 7 := by
  rw [List.length_append, List.length_replicate]
  omega

/-- Running one instruction of a list (R60). -/
theorem execAll_cons_of_next {i : Instr} {is : List Instr} (ht : exec i s = .next t) : execAll (i :: is) s = execAll is t := by
  rw [execAll, ht]

section Send

variable (prio : BitVec 3) (dst src : BitVec 8) {payload chunk : List Byte}

/-- A Single frame of a send is the row PCI_SF (R172). -/
theorem exec_segment_single (hp : s.cfg.wf) (hl : payload.length ≤ 7) :
    exec (.rxframe (segmentRecord (svcIdNumber s.cfg prio.toNat s.cfg.svcMarker.toNat dst.toNat src.toNat)
        (BitVec.ofNat 8 payload.length :: payload))) s =
      exec (.pciSf (segmentHead s.cfg prio dst src (payload.length + 1)) (BitVec.ofNat 4 payload.length)
        (payload ++ List.replicate (8 - (payload.length + 1)) 0)) s := by
  have hn : (BitVec.ofNat 4 payload.length).toNat = payload.length := by rw [BitVec.toNat_ofNat]; omega
  refine (arrivalRowsAgreeWithRxframe _ _ s hp ?_ ?_).symm
  · simp only [Instr.wf, segmentHead_wf, padded_length hl, beq_self_eq_true, Bool.and_self]
  · rw [rowFrame, hn]
    rfl

/-- The First frame of a send is the row PCI_FF (R173). -/
theorem exec_segment_first (hp : s.cfg.wf) (h8 : 8 ≤ payload.length) (hl : payload.length ≤ 4095) :
    exec (.rxframe (segmentRecord (svcIdNumber s.cfg prio.toNat s.cfg.svcMarker.toNat dst.toNat src.toNat)
        (BitVec.ofNat 8 (0x10 + payload.length / 256) :: BitVec.ofNat 8 (payload.length % 256) :: payload.take 6))) s =
      exec (.pciFf (segmentHead s.cfg prio dst src 8) (BitVec.ofNat 12 payload.length) (payload.take 6)) s := by
  have hn : (BitVec.ofNat 12 payload.length).toNat = payload.length := by rw [BitVec.toNat_ofNat]; omega
  have h6 : (payload.take 6).length = 6 := List.length_take_of_le (by omega)
  refine (arrivalRowsAgreeWithRxframe _ _ s hp ?_ ?_).symm
  · simp only [Instr.wf, segmentHead_wf, h6, beq_self_eq_true, Bool.and_self]
  · simp [rowFrame, rowFrame.svcFrame, segmentRecord, segmentHead, hn, h6]

/-- A Consecutive frame of a send is the row PCI_CF (R184). -/
theorem exec_segment_consecutive (hp : s.cfg.wf) (idx : Nat) (hl : chunk.length ≤ 7) :
    exec (.rxframe (segmentRecord (svcIdNumber s.cfg prio.toNat s.cfg.svcMarker.toNat dst.toNat src.toNat)
        (BitVec.ofNat 8 (0x20 + idx % 16) :: chunk))) s =
      exec (.pciCf (segmentHead s.cfg prio dst src (chunk.length + 1)) (BitVec.ofNat 4 idx)
        (chunk ++ List.replicate (8 - (chunk.length + 1)) 0)) s := by
  have hn : (BitVec.ofNat 4 idx).toNat = idx % 16 := BitVec.toNat_ofNat ..
  refine (arrivalRowsAgreeWithRxframe _ _ s hp ?_ ?_).symm
  · simp only [Instr.wf, segmentHead_wf, padded_length hl, beq_self_eq_true, Bool.and_self]
  · rw [rowFrame, hn]
    rfl

end Send

/-! ### The reassembly of a send -/

/-- A transfer of a payload in progress: its first n bytes have arrived, and idx is the index expected next (R25, R27). -/
structure Reassembly.Receives (ra : Reassembly) (payload : List Byte) (n idx : Nat) : Prop where
  active : ra.active = true
  size : ra.size = BitVec.ofNat 12 payload.length
  count : ra.count.toNat = n
  expects : (ra.lastIdx.toNat + 1) % 16 = idx % 16
  bytes : ∀ i, i < n → Memory.read ra.buf i = payload[i]?

theorem Reassembly.Receives.size_toNat {ra : Reassembly} {payload : List Byte} {n idx : Nat} (hr : ra.Receives payload n idx)
    (hl : payload.length ≤ 4095) : ra.size.toNat = payload.length := by
  rw [hr.size, BitVec.toNat_ofNat]
  omega

/-- The bytes that have arrived are written (R27). -/
theorem Reassembly.Receives.written {ra : Reassembly} {payload : List Byte} {n idx : Nat} (hr : ra.Receives payload n idx)
    (hn : n ≤ payload.length) : Memory.writtenBelow ra.buf n := by
  intro i hi
  rw [hr.bytes i hi, List.getElem?_eq_getElem (hi.trans_le hn)]
  rfl

/-- The message of a payload that a transfer with these fields delivers (R146). -/
def Reassembly.delivery (ra : Reassembly) (payload : List Byte) : Message :=
  ⟨.service, ra.prio, BitVec.ofNat 16 ra.dst.toNat, ra.src, BitVec.ofNat 12 payload.length, payload⟩

section Transfer

variable (prio : BitVec 3) (dst src : BitVec 8) {payload : List Byte} {n idx : Nat}

/-- The data bytes behind the PCI byte of a Consecutive frame are the payload's next bytes, as far as they go (R184). -/
theorem getElem?_chunk {k i : Nat} (hk : k = min 7 (payload.length - n)) (hi : i < k) (padding : List Byte) :
    ((payload.drop n).take 7 ++ padding)[i]? = payload[n + i]? := by
  have hlen : i < ((payload.drop n).take 7).length := by rw [List.length_take, List.length_drop]; omega
  rw [List.getElem?_append_left hlen, List.getElem?_take_of_lt (by omega), List.getElem?_drop]

/-- The bytes of a payload below n, and k more of them read after those. -/
theorem read_of_appended {buf buf' : Memory} {k : Nat} (hbytes : ∀ i, i < n → Memory.read buf i = payload[i]?)
    (hkeep : ∀ i, i < n → Memory.read buf' i = Memory.read buf i)
    (hnew : ∀ i, i < k → Memory.read buf' (n + i) = payload[n + i]?) : ∀ i, i < n + k → Memory.read buf' i = payload[i]? := by
  intro i hi
  rcases Nat.lt_or_ge i n with hin | hin
  · rw [hkeep i hin, hbytes i hin]
  · obtain ⟨j, rfl⟩ := Nat.exists_eq_add_of_le hin
    exact hnew j (by omega)

/-- What the next Consecutive frame of a send does to a transfer of its payload: it appends k bytes, and with the last of them it
delivers the payload (R146). -/
theorem exec_consecutive_of_receives {k : Nat} (hp : s.cfg.wf) (hr : s.ra.Receives payload n idx) (hn : n < payload.length)
    (hl : payload.length ≤ 4095) (hk : k = min 7 (payload.length - n)) :
    let frame := segmentRecord (svcIdNumber s.cfg prio.toNat s.cfg.svcMarker.toNat dst.toNat src.toNat)
      (BitVec.ofNat 8 (0x20 + idx % 16) :: (payload.drop n).take 7)
    ∃ buf : Memory, (∀ i, i < n + k → Memory.read buf i = payload[i]?) ∧
      (n + k < payload.length →
        exec (.rxframe frame) s =
          .next { s with
            ra := { s.ra with count := BitVec.ofNat 12 (n + k), lastIdx := BitVec.ofNat 4 idx, buf := buf }
            out := .nothing }) ∧
      (n + k = payload.length → belowDepth s.cfg.qMsg s.msgq.length →
        exec (.rxframe frame) s =
          .next { s with
            ra := { s.ra with active := false, count := s.ra.size, lastIdx := BitVec.ofNat 4 idx, buf := buf }
            msgq := s.msgq ++ [s.ra.delivery payload]
            out := .nothing }) := by
  intro frame
  have hsz := hr.size_toNat hl
  have hw := hr.written hn.le
  obtain ⟨hact, hsize, rfl, hexp, hbytes⟩ := hr
  have hchunk : ((payload.drop s.ra.count.toNat).take 7).length = k := by rw [List.length_take, List.length_drop, hk]
  have hlen : (segmentHead s.cfg prio dst src (k + 1)).len.toNat = k + 1 := segmentHead_len (by omega)
  have hsn : (BitVec.ofNat 4 idx).toNat = (s.ra.lastIdx.toNat + 1) % 16 := (BitVec.toNat_ofNat ..).trans hexp.symm
  have hexec : exec (.rxframe frame) s = _ := exec_segment_consecutive prio dst src hp idx (by omega)
  rw [hchunk] at hexec
  obtain ⟨buf, hnew, hkeep, hmore, hlast⟩ := expectedConsecutiveFrameAppends (segmentHead s.cfg prio dst src (k + 1))
    (BitVec.ofNat 4 idx) ((payload.drop s.ra.count.toNat).take 7 ++ List.replicate (8 - (k + 1)) 0) s
    (hchunk ▸ padded_length (by omega)) (by omega) (by omega) hact hsn (by omega)
  have hmin : min (k + 1 - 1) (payload.length - s.ra.count.toNat) = k := by omega
  simp only [hlen, hsz, hmin] at hnew hkeep hmore hlast
  have hread := read_of_appended hbytes (fun i hi => hkeep i (.inl hi)) fun i hi => (hnew i hi).trans (getElem?_chunk hk hi _)
  refine ⟨buf, hread, fun h => hexec.trans (hmore h), fun h hq => ?_⟩
  obtain ⟨bytes, hbl, hbr, hfin⟩ := hlast h hw hq
  have hpay : bytes = payload := by
    refine List.ext_getElem?' fun i hi => ?_
    rw [hbr i (by omega), hread i (by omega)]
  rw [hexec, hfin, hpay, Reassembly.delivery, ← hsize]

theorem consecutiveBytes_nil (idx fuel : Nat) : consecutiveBytes idx fuel [] = [] := by
  cases fuel <;> rfl

theorem consecutiveBytes_of_ne_nil {bytes : List Byte} (hb : bytes ≠ []) (idx fuel : Nat) :
    consecutiveBytes idx (fuel + 1) bytes =
      (BitVec.ofNat 8 (0x20 + idx % 16) :: bytes.take 7) :: consecutiveBytes (idx + 1) fuel (bytes.drop 7) := if_neg hb

/-- The Consecutive frames of the rest of a payload, delivered in order, complete its transfer (R146). -/
theorem execAll_consecutive_of_receives {fuel : Nat} (hp : s.cfg.wf) (hr : s.ra.Receives payload n idx)
    (hn : n < payload.length) (hl : payload.length ≤ 4095) (hfuel : payload.length ≤ n + fuel)
    (hq : belowDepth s.cfg.qMsg s.msgq.length) :
    ∃ ra : Reassembly, ra.active = false ∧
      execAll (((consecutiveBytes idx fuel (payload.drop n)).map
          (segmentRecord (svcIdNumber s.cfg prio.toNat s.cfg.svcMarker.toNat dst.toNat src.toNat))).map .rxframe) s =
        .next { s with ra := ra, msgq := s.msgq ++ [s.ra.delivery payload], out := .nothing } := by
  induction fuel generalizing s n idx with
  | zero => omega
  | succ fuel ih =>
    have hne : payload.drop n ≠ [] := by rw [ne_eq, List.drop_eq_nil_iff]; omega
    obtain ⟨buf, hread, hmore, hlast⟩ := exec_consecutive_of_receives prio dst src hp hr hn hl rfl
    rw [consecutiveBytes_of_ne_nil hne, List.map_cons, List.map_cons, List.drop_drop]
    by_cases h7 : n + 7 < payload.length
    case pos =>
      have hk : min 7 (payload.length - n) = 7 := by omega
      rw [hk] at hread hmore
      rw [execAll_cons_of_next (hmore h7)]
      refine ih (s := { s with
        ra := { s.ra with count := BitVec.ofNat 12 (n + 7), lastIdx := BitVec.ofNat 4 idx, buf := buf }
        out := .nothing }) hp ⟨hr.active, hr.size, ?count, ?expects, hread⟩ h7 (by omega) hq
      case count =>
        simp only [BitVec.toNat_ofNat]
        omega
      case expects =>
        simp only [BitVec.toNat_ofNat]
        omega
    case neg =>
      have hend : payload.drop (n + 7) = [] := List.drop_eq_nil_of_le (by omega)
      rw [execAll_cons_of_next (hlast (by omega) hq), hend, consecutiveBytes_nil]
      exact ⟨_, rfl, rfl⟩

end Transfer

/-- A payload of at most seven bytes is delivered by its Single frame (R149, R172). -/
theorem execAll_segments_single (prio : BitVec 3) (dst src : BitVec 8) {payload : List Byte} (hp : s.cfg.wf)
    (hl : payload.length ≤ 7) (hq : belowDepth s.cfg.qMsg s.msgq.length) :
    execAll ((segments (svcIdNumber s.cfg prio.toNat s.cfg.svcMarker.toNat dst.toNat src.toNat) payload).map .rxframe) s =
      .next { s with
        msgq := s.msgq ++
          [⟨.service, prio, BitVec.ofNat 16 dst.toNat, src, BitVec.ofNat 12 payload.length, payload⟩]
        out := .nothing } := by
  have hn : (BitVec.ofNat 4 payload.length).toNat = payload.length := by rw [BitVec.toNat_ofNat]; omega
  have hlen : (segmentHead s.cfg prio dst src (payload.length + 1)).len.toNat = payload.length + 1 := segmentHead_len (by omega)
  have hsf := singleFrameDelivered (segmentHead s.cfg prio dst src (payload.length + 1)) (BitVec.ofNat 4 payload.length)
    (payload ++ List.replicate (8 - (payload.length + 1)) 0) s (padded_length hl) (by omega) (by omega) hq
  rw [hn, List.take_left] at hsf
  rw [segments_eq_map, segmentBytes, if_pos hl, List.map_singleton, List.map_singleton,
    execAll_cons_of_next ((exec_segment_single prio dst src hp hl).trans hsf)]
  rfl

/-- The First frame of a send begins the transfer of its payload, and the Continue reply goes out (R143, R144). -/
theorem exec_first_receives (prio : BitVec 3) (dst src : BitVec 8) {payload : List Byte} (hp : s.cfg.wf)
    (h8 : 8 ≤ payload.length) (hl : payload.length ≤ 4095) (hq : belowDepth s.cfg.qTx s.txq.length) :
    ∃ (ra : Reassembly) (reply : FrameRecord),
      exec (.rxframe (segmentRecord (svcIdNumber s.cfg prio.toNat s.cfg.svcMarker.toNat dst.toNat src.toNat)
          (BitVec.ofNat 8 (0x10 + payload.length / 256) :: BitVec.ofNat 8 (payload.length % 256) :: payload.take 6))) s =
        .next { s with ra := ra, txq := s.txq ++ [reply], out := .nothing } ∧
      ra.Receives payload 6 1 ∧ (ra.prio = prio ∧ ra.dst = dst ∧ ra.src = src) ∧
      Transmits reply (svcIdNumber s.cfg prio.toNat s.cfg.svcMarker.toNat src.toNat dst.toNat) [0x30, 0x00, 0x00] := by
  have hn : (BitVec.ofNat 12 payload.length).toNat = payload.length := by rw [BitVec.toNat_ofNat]; omega
  have hlen : (segmentHead s.cfg prio dst src 8).len.toNat = 8 := segmentHead_len (Nat.le_refl 8)
  obtain ⟨buf, reply, hexec, hnew, -, hreply⟩ := firstFrameStartsTransfer (segmentHead s.cfg prio dst src 8)
    (BitVec.ofNat 12 payload.length) (payload.take 6) s (List.length_take_of_le (by omega)) (by omega) (by omega) hq
  have hk : min (8 - 2) payload.length = 6 := by omega
  simp only [hlen, hn, hk] at hexec hnew
  refine ⟨_, reply, (exec_segment_first prio dst src hp h8 hl).trans hexec, ⟨rfl, rfl, rfl, rfl, fun i hi => ?_⟩,
    ⟨rfl, rfl, rfl⟩, hreply⟩
  rw [hnew i hi, List.getElem?_take_of_lt hi]

/-- Settles O59: a Single frame is delivered at once; a First frame begins a transfer, which its Consecutive frames complete. -/
theorem segmentsReassembleToPayload : Obligations.SegmentsReassembleToPayload := by
  intro prio dst src payload s hp hl hqtx hqmsg
  by_cases h7 : payload.length ≤ 7
  case pos =>
    exact ⟨_, execAll_segments_single prio dst src hp h7 hqmsg, rfl, rfl, rfl, rfl, fun _ => ⟨rfl, rfl⟩,
      fun h8 => absurd h7 (Nat.not_le_of_lt h8)⟩
  case neg =>
    obtain ⟨ra, reply, hfirst, hr, ⟨rfl, rfl, rfl⟩, hreply⟩ :=
      exec_first_receives prio dst src hp (Nat.lt_of_not_le h7) hl hqtx
    obtain ⟨ra', hidle, hrest⟩ := execAll_consecutive_of_receives
      (s := { s with ra := ra, txq := s.txq ++ [reply], out := .nothing }) ra.prio ra.dst ra.src (fuel := payload.length) hp hr
      (by omega) hl (by omega) hqmsg
    refine ⟨_, Eq.trans ?_ hrest, rfl, rfl, rfl, rfl, fun h => absurd h h7, fun _ => ⟨hidle, reply, rfl, hreply⟩⟩
    rw [segments_eq_map, segmentBytes, if_neg h7, List.map_cons, List.map_cons, execAll_cons_of_next hfirst]

end Sys2Proof.Machine
end

section
/-! PROOFS. The send path (43_segmentation.md): the commands WRBUF, SEND and STATUS (R170 to R173, R178, R196), the transitions of the TX
engine (R180 to R188), its timer (R175, R190, R195), what ends a send (R192), and a whole granted send (R176). -/

namespace Sys2Proof.Machine

open Sys2Proof.Spec

variable {s t : State} {a b c d : Word}

/-! ### STATUS -/

theorem boolWord_toNat (x : Bool) : (boolWord x).toNat = if x = true then 1 else 0 := by
  cases x <;> rfl

/-- Settles O8: the answer of STATUS by its definition, and each result word by the codes of its register. -/
theorem statusReadsRegisters : Obligations.StatusReadsRegisters := by
  refine fun s => ⟨_, _, _, _, rfl, ?state, boolWord_toNat _, ?result, boolWord_toNat _⟩
  case state => cases s.tx.state <;> rfl
  case result => cases s.tx.result <;> rfl

/-! ### WRBUF -/

theorem wrbufOperands_inRange_iff : (indexInRange a && byteInRange b) = true ↔ a.toNat ≤ 4094 ∧ b.toNat ≤ 255 := by
  simp only [indexInRange, byteInRange, Bool.and_eq_true, decide_eq_true_eq]

/-- During a send WRBUF is held (R170). -/
theorem exec_wrbuf_of_busy (hs : s.tx.state ≠ .idle) : exec (.wrbuf a b) s = noStep s := if_pos hs

/-- In IDLE WRBUF acts by the range of its operands (R170). -/
theorem exec_wrbuf_of_idle (hs : s.tx.state = .idle) :
    exec (.wrbuf a b) s =
      if (indexInRange a && byteInRange b) = true then
        respond (s.withTx { s.tx with buf := Memory.write s.tx.buf a.toNat (addrOf b) }) 0 0 0 0
      else raiseCommand s .invalidField := if_neg (not_not.mpr hs)

/-- Settles O34: in IDLE by the range of the operands, and the byte written by the laws of the buffer. -/
theorem wrbufWritesOneByte : Obligations.WrbufWritesOneByte := by
  refine fun a b s => ⟨fun hs ha hb => ?_, fun hs hr => ?_, exec_wrbuf_of_busy⟩
  · refine ⟨Memory.write s.tx.buf a.toNat (addrOf b), ?_, Memory.read_write_self _ _ _, fun i => Memory.read_write_other _ _⟩
    rw [exec_wrbuf_of_idle hs, if_pos (wrbufOperands_inRange_iff.mpr ⟨ha, hb⟩)]
    rfl
  · rw [exec_wrbuf_of_idle hs, if_neg (mt wrbufOperands_inRange_iff.mp (by omega))]
    rfl

/-! ### SEND: its conditions -/

theorem sendInRange_iff :
    sendInRange a b c d = true ↔ a.toNat ≤ 7 ∧ b.toNat ≤ 255 ∧ c.toNat ≤ 255 ∧ d.toNat ≤ 4095 := by
  rw [sendInRange, Bool.and_eq_true, svcOperands_inRange_iff, lengthInRange, decide_eq_true_eq, and_assoc, and_assoc]

/-- The Service identifier under which a SEND with these operands transmits (R171). -/
def sendIdent (p : Config.Params) (a b c : Word) : Ident := svcIdent p (prioOf a) p.svcMarker (addrOf b) (addrOf c)

theorem sendIdent_toNat (p : Config.Params) (ha : a.toNat ≤ 7) (hb : b.toNat ≤ 255) (hc : c.toNat ≤ 255) :
    (sendIdent p a b c).toNat = svcIdNumber p a.toNat p.svcMarker.toNat b.toNat c.toNat := by
  obtain ⟨prio, dst, src, rfl, rfl, rfl⟩ := exists_fields (n := 8) ha (Nat.lt_succ_of_le hb) hc
  rw [sendIdent, prioOf_setWidth, addrOf_setWidth, addrOf_setWidth, svcIdent_toNat, BitVec.toNat_setWidth_of_le (by decide),
    BitVec.toNat_setWidth_of_le (by decide), BitVec.toNat_setWidth_of_le (by decide), svcIdNumber]

/-- During a send SEND is held (R171). -/
theorem exec_send_of_busy (hs : s.tx.state ≠ .idle) : exec (.send a b c d) s = noStep s := if_pos hs

/-- An operand out of range is recorded and refused, whatever TXQ holds (R171). -/
theorem exec_send_of_outOfRange (hs : s.tx.state = .idle) (hr : sendInRange a b c d = false) :
    exec (.send a b c d) s = raiseCommand (s.withTx s.tx.rejectSend) .invalidField :=
  (if_neg (not_not.mpr hs)).trans (if_pos hr)

/-- Legal operands and a full TXQ: SEND is held (R58; log 8). -/
theorem exec_send_of_full (hs : s.tx.state = .idle) (hr : sendInRange a b c d = true) (hq : s.txqRoom = false) :
    exec (.send a b c d) s = noStep s := by
  simp [exec, execSend, hs, hr, hq]

/-- A byte of the payload that no WRBUF wrote is a fault (R178). -/
theorem exec_send_of_unwritten (hs : s.tx.state = .idle) (hr : sendInRange a b c d = true) (hq : s.txqRoom = true)
    (hp : Memory.readBytes s.tx.buf 0 d.toNat = none) : exec (.send a b c d) s = .fault .txByteUnwritten := by
  simp [exec, execSend, hs, hr, hq, hp]

/-- A written payload is sent by one of the two paths, by its length (R172, R173). -/
theorem exec_send_of_written {payload : List Byte} (hs : s.tx.state = .idle) (hr : sendInRange a b c d = true)
    (hq : s.txqRoom = true) (hp : Memory.readBytes s.tx.buf 0 d.toNat = some payload) :
    exec (.send a b c d) s =
      if d.toNat ≤ 7 then sendSingle s (sendIdent s.cfg a b c) payload
      else sendFirst s (sendIdent s.cfg a b c) (BitVec.ofNat 12 d.toNat) payload := by
  simp only [exec, execSend, hs, hr, hq, hp]
  rfl

/-- Settles O35: the range check comes before the room in TXQ, and both only in IDLE. -/
theorem sendRejectsBadOperands : Obligations.SendRejectsBadOperands := by
  refine fun a b c d s => ⟨fun hs hr => ?_, fun hs ha hb hc hd hq => ?_, exec_send_of_busy⟩
  · have hr' : sendInRange a b c d = false := by
      rw [← Bool.not_eq_true, sendInRange_iff]
      omega
    exact exec_send_of_outOfRange hs hr'
  · exact exec_send_of_full hs (sendInRange_iff.mpr ⟨ha, hb, hc, hd⟩) (hasRoom_eq_false hq)

/-- Settles O38: a byte that was never written makes the read of the payload fail. -/
theorem sendOfUnwrittenByteFaults : Obligations.SendOfUnwrittenByteFaults :=
  fun _ _ _ _ _ hs ha hb hc hd hq hw =>
    exec_send_of_unwritten hs (sendInRange_iff.mpr ⟨ha, hb, hc, hd⟩) ((hasRoom_iff _ _).mpr hq)
      ((Memory.readBytes_eq_none_iff _ _).mpr hw)

/-! ### SEND: its frames -/

/-- The payload of a SEND of written bytes (R178). -/
theorem Memory.exists_payload {m : Memory} {n : Nat} (h : m.writtenBelow n) :
    ∃ payload, Memory.readBytes m 0 n = some payload ∧ payload.length = n ∧ ∀ i, i < n → payload[i]? = Memory.read m i := by
  obtain ⟨payload, hp⟩ := Memory.exists_readBytes h (i := 0) (Nat.zero_add n).le
  obtain ⟨hl, hr⟩ := (Memory.readBytes_eq_some_iff _ _ _ _).mp hp
  exact ⟨payload, hp, hl, fun i hi => by rw [← hr i hi, Nat.zero_add]⟩

/-- The single-frame path on the state's fields (R172). -/
theorem sendSingle_next {id : Ident} {payload : List Byte} (hs : s.tx.state = .idle) :
    sendSingle s id payload =
      .next { s with
        tx := { s.tx with id := id, done := true, result := .success }
        txq := s.txq ++ [outFrame id (BitVec.ofNat 8 payload.length :: payload)]
        out := .response ⟨.success, 0, 0, 0, 0⟩ } := by
  have htx : (s.tx.beginSend id).finishSend .success = { s.tx with id := id, done := true, result := .success } := by
    rw [TxEngine.finishSend, ← hs]
    rfl
  rw [sendSingle, htx]
  rfl

/-- Settles O36: the single-frame path on the payload read from TX_BUF. -/
theorem shortSendPushesSingleFrame : Obligations.ShortSendPushesSingleFrame := by
  intro a b c d s hs ha hb hc hd hw hq
  obtain ⟨payload, hp, hl, hread⟩ := Memory.exists_payload hw
  refine ⟨sendIdent s.cfg a b c, _, payload, ?_, sendIdent_toNat _ ha hb hc, hl, hread,
    transmits_outFrame _ _ (Nat.succ_le_succ (hl.trans_le hd))⟩
  rw [exec_send_of_written hs (sendInRange_iff.mpr ⟨ha, hb, hc, by omega⟩) ((hasRoom_iff _ _).mpr hq) hp, if_pos hd,
    sendSingle_next hs, hl]

/-- The two length bytes of a First frame, as numbers (R75, R173). -/
theorem pciByte_ffLength {n : Nat} (hn : n ≤ 4095) :
    pciByte 0x1 ((BitVec.ofNat 12 n).extractLsb' 8 4) = BitVec.ofNat 8 (0x10 + n / 256) := by
  apply BitVec.eq_of_toNat_eq
  rw [pciByte_toNat, toNat_slice, BitVec.toNat_ofNat, BitVec.toNat_ofNat, show (0x1 : BitVec 4).toNat = 1 from rfl]
  omega

theorem ffLength_lowByte (n : Nat) : (BitVec.ofNat 12 n).extractLsb' 0 8 = BitVec.ofNat 8 (n % 256) := by
  apply BitVec.eq_of_toNat_eq
  rw [toNat_slice, BitVec.toNat_ofNat, BitVec.toNat_ofNat]
  omega

/-- The segmented path on the state's fields (R173). -/
theorem exec_send_long {payload : List Byte} (hs : s.tx.state = .idle) (hr : sendInRange a b c d = true)
    (hq : belowDepth s.cfg.qTx s.txq.length) (hp : Memory.readBytes s.tx.buf 0 d.toNat = some payload) (h8 : 8 ≤ d.toNat) :
    exec (.send a b c d) s =
      .next { s with
        tx :=
          { s.tx with
            state := .waitFc, id := sendIdent s.cfg a b c, len := BitVec.ofNat 12 d.toNat, pos := 6, idx := 1, bs := 0, st := 0,
            blkCnt := 0, timer := 5000, done := false, result := .success }
        txq := s.txq ++ [outFrame (sendIdent s.cfg a b c)
          (BitVec.ofNat 8 (0x10 + d.toNat / 256) :: BitVec.ofNat 8 (d.toNat % 256) :: payload.take 6)]
        out := .response ⟨.success, 0, 0, 0, 0⟩ } := by
  obtain ⟨-, -, -, hd⟩ := sendInRange_iff.mp hr
  rw [exec_send_of_written hs hr ((hasRoom_iff _ _).mpr hq) hp, if_neg (by omega), sendFirst, pciByte_ffLength hd,
    ffLength_lowByte]
  rfl

/-- Settles O37: the segmented path on the payload read from TX_BUF. -/
theorem longSendPushesFirstFrame : Obligations.LongSendPushesFirstFrame := by
  intro a b c d s hs ha hb hc h8 hd hw hq
  obtain ⟨payload, hp, hl, hread⟩ := Memory.exists_payload hw
  have h6 : (payload.take 6).length = 6 := List.length_take_of_le (by omega)
  refine ⟨sendIdent s.cfg a b c, _, payload.take 6, exec_send_long hs (sendInRange_iff.mpr ⟨ha, hb, hc, hd⟩) hq hp h8,
    sendIdent_toNat _ ha hb hc, h6, fun i hi => ?_, transmits_outFrame _ _ (by simp only [List.length_cons, h6]; decide)⟩
  rw [List.getElem?_take_of_lt hi, hread i (by omega)]

/-! ### A stored tuple -/

theorem State.flowReady_iff : s.flowReady = true ↔ s.tx.state = .waitFc ∧ s.fc.valid = true := by
  rw [State.flowReady, Bool.and_eq_true, beq_iff_eq]

/-- TXSTEP consumes a stored tuple, whatever the timer holds (R180). -/
theorem exec_txstep_of_flowReady (h : s.flowReady = true) : exec .txstep s = consumeFlow s := by
  obtain ⟨hs, hv⟩ := State.flowReady_iff.mp h
  rw [exec_txstep_waitFc hs, if_pos hv]

theorem consumeFlow_of_continue (h : s.fc.flag = 0) : consumeFlow s = takeContinue s := by
  rw [consumeFlow, h]
  rfl

theorem consumeFlow_of_wait (h : s.fc.flag = 1) : consumeFlow s = takeWait s := by
  rw [consumeFlow, h]
  rfl

theorem consumeFlow_of_abort (h : 2 ≤ s.fc.flag.toNat) : consumeFlow s = takeAbort s := by
  unfold consumeFlow
  split
  case h_1 h0 => omega
  case h_2 h1 => omega
  case h_3 => rfl

/-! Each flow-status row takes a tuple of its own flag, and has no step otherwise (R181, R182, R187; log 7). -/

theorem exec_fcContinue : exec .fcContinue s = if s.flowReady = true ∧ s.fc.flag = 0 then takeContinue s else noStep s := by
  simp only [exec, execFcContinue, Bool.and_eq_true, beq_iff_eq]

theorem exec_fcWait : exec .fcWait s = if s.flowReady = true ∧ s.fc.flag = 1 then takeWait s else noStep s := by
  simp only [exec, execFcWait, Bool.and_eq_true, beq_iff_eq]

theorem exec_fcAbort : exec .fcAbort s = if s.flowReady = true ∧ s.fc.flag = 2 then takeAbort s else noStep s := by
  simp only [exec, execFcAbort, Bool.and_eq_true, beq_iff_eq]

theorem exec_fcReserved {fs : BitVec 4} :
    exec (.fcReserved fs) s =
      if s.flowReady = true ∧ s.fc.flag = fs ∧ 3 ≤ fs.toNat then takeAbort s else noStep s := by
  simp only [exec, execFcReserved, Bool.and_eq_true, beq_iff_eq, decide_eq_true_eq, and_assoc]
  rfl

/-- Settles O39: each row by its condition, and TXSTEP by the flag of the tuple it consumes. -/
theorem storedTupleIsConsumedByFlag : Obligations.StoredTupleIsConsumedByFlag := by
  refine fun s => ⟨fun hs hv => ?ready, fun hn => ?notReady⟩
  case ready =>
    have hr := State.flowReady_iff.mpr ⟨hs, hv⟩
    rw [exec_txstep_of_flowReady hr, exec_fcContinue, exec_fcWait, exec_fcAbort]
    refine ⟨fun h => ?_, fun h => ?_, fun h => ?_, fun fs hfs h => ?_, fun h => if_neg fun hc => h hc.2,
      fun h => if_neg fun hc => h hc.2, fun h => if_neg fun hc => h hc.2, fun fs h => ?_⟩
    · rw [consumeFlow_of_continue h, if_pos ⟨hr, h⟩]
      exact ⟨rfl, rfl⟩
    · rw [consumeFlow_of_wait h, if_pos ⟨hr, h⟩]
      exact ⟨rfl, rfl⟩
    · rw [consumeFlow_of_abort (by rw [h]; decide), if_pos ⟨hr, h⟩]
      exact ⟨rfl, rfl⟩
    · rw [consumeFlow_of_abort (by rw [h]; omega), exec_fcReserved, if_pos ⟨hr, h, hfs⟩]
      exact ⟨rfl, rfl⟩
    · rw [exec_fcReserved]
      exact if_neg fun hc => h hc.2.1
  case notReady =>
    have hr : ¬ s.flowReady = true := by
      rw [State.flowReady_iff]
      rintro ⟨hs, hv⟩
      exact hn.elim (fun h => h hs) fun h => by simp [hv] at h
    rw [exec_fcContinue, exec_fcWait, exec_fcAbort]
    refine ⟨if_neg fun hc => hr hc.1, if_neg fun hc => hr hc.1, if_neg fun hc => hr hc.1, fun fs => ?_⟩
    rw [exec_fcReserved]
    exact if_neg fun hc => hr hc.1

/-! ### The timer -/

/-- Settles O41: TXSTEP by its state, with the timer at 0. -/
theorem expiredTimerTransitions : Obligations.ExpiredTimerTransitions := by
  refine fun s ht => ⟨fun hs => ?_, fun hs hp => ?_, fun hs hp => ?_, fun hs hv => ?_⟩
  · rw [exec_txstep_sepDelay hs, if_pos ht]
    rfl
  · rw [exec_txstep_waitPause hs, if_pos ht, endPause, hp]
    rfl
  · rw [exec_txstep_waitPause hs, if_pos ht, endPause, hp]
    rfl
  · rw [exec_txstep_waitFc hs, hv, if_pos ht]
    rfl

theorem TxState.timed_iff {x : TxState} : x.timed = true ↔ x = .waitFc ∨ x = .sepDelay ∨ x = .waitPause := by
  cases x <;> decide

/-- Settles O43: TICK counts when its state is timed and the timer is not 0. -/
theorem tickCountsTimerDown : Obligations.TickCountsTimerDown := by
  intro s
  simp only [← TxState.timed_iff, exec, execTick, Bool.and_eq_true, decide_eq_true_eq]
  by_cases hs : s.tx.state.timed = true
  case neg => exact ⟨s.tx.timer, if_neg fun h => hs h.1, (if_neg hs).symm⟩
  case pos =>
    by_cases ht : s.tx.timer = 0
    · refine ⟨s.tx.timer, if_neg fun h => h.2 ht, ?_⟩
      rw [if_pos hs, ht]
      rfl
    · refine ⟨s.tx.timer - 1, if_pos ⟨hs, ht⟩, ?_⟩
      rw [if_pos hs]
      bv_omega

/-- Settles O45: the low nibble of a byte is its remainder by 16. -/
theorem separationTimeInTicks : Obligations.SeparationTimeInTicks := by
  intro v
  rw [stTicks, loNibble_toNat, separationTicks]

/-- In a timed state n ticks take n off the timer, down to 0, and write nothing else (R190). -/
theorem execAll_ticks (hs : s.tx.state = .waitFc ∨ s.tx.state = .sepDelay ∨ s.tx.state = .waitPause) (n : Nat) :
    ∃ timer out, execAll (List.replicate n .tick) s = .next { s with tx := { s.tx with timer := timer }, out := out } ∧
      timer.toNat = s.tx.timer.toNat - n := by
  induction n generalizing s with
  | zero => exact ⟨s.tx.timer, s.out, rfl, rfl⟩
  | succ n ih =>
    obtain ⟨timer, hexec, htimer⟩ := tickCountsTimerDown s
    rw [if_pos hs] at htimer
    obtain ⟨timer', out, hrest, htimer'⟩ := ih (s := { s with tx := { s.tx with timer := timer }, out := .nothing }) hs
    refine ⟨timer', out, ?_, ?_⟩
    · rw [List.replicate_succ, execAll_cons_of_next hexec, hrest]
    · rw [htimer', htimer, Nat.sub_sub, Nat.add_comm]

/-- While the timer of a timed transition runs, the transition has no step (R185, R186, R188). -/
theorem exec_txstep_of_running
    (hs : s.tx.state = .waitFc ∧ s.fc.valid = false ∨ s.tx.state = .sepDelay ∨ s.tx.state = .waitPause)
    (ht : s.tx.timer ≠ 0) : exec .txstep s = noStep s := by
  obtain ⟨hs, hv⟩ | hs | hs := hs
  · rw [exec_txstep_waitFc hs, hv, if_neg ht]
    rfl
  · rw [exec_txstep_sepDelay hs, if_neg ht]
  · rw [exec_txstep_waitPause hs, if_neg ht]

/-- With its timer at 0 a timed transition is taken, and it leaves its state (R185, R186, R188). -/
theorem exec_txstep_of_expired
    (hs : s.tx.state = .waitFc ∧ s.fc.valid = false ∨ s.tx.state = .sepDelay ∨ s.tx.state = .waitPause)
    (ht : s.tx.timer = 0) : ∃ u, exec .txstep s = .next u ∧ u.out = .nothing ∧ u.tx.state ≠ s.tx.state := by
  obtain ⟨hdelay, hrewait, hresume, htimeout⟩ := expiredTimerTransitions s ht
  obtain ⟨hs, hv⟩ | hs | hs := hs
  · exact ⟨_, htimeout hs hv, rfl, by simp [hs]⟩
  · exact ⟨_, hdelay hs, rfl, by simp [hs]⟩
  · cases hp : s.cfg.waitPolicy with
    | rewait => exact ⟨_, hrewait hs hp, rfl, by simp [hs]⟩
    | resume => exact ⟨_, hresume hs hp, rfl, by simp [hs]⟩

/-- Settles O44: the ticks leave the timed state as it is but for its timer, which decides the transition. -/
theorem timerExpiresAfterExactlyItsTicks : Obligations.TimerExpiresAfterExactlyItsTicks := by
  intro s n hs
  obtain ⟨timer, out, hexec, htimer⟩ := execAll_ticks (hs.imp_left And.left) n
  refine ⟨_, hexec, rfl, htimer, fun hlt => exec_txstep_of_running hs fun h0 => ?_, fun hle => exec_txstep_of_expired hs ?_⟩
  · have h0 : timer.toNat = 0 := congrArg BitVec.toNat h0
    omega
  · exact BitVec.eq_of_toNat_eq (htimer.trans (Nat.sub_eq_zero_of_le hle))

/-! ### The end of a send -/

/-- What returns a send to IDLE: the transitions and RESET; the commands that write TX_STATE act in IDLE only (R192). -/
theorem Effect.transition_of_ended {i : Instr} (h : Effect s i t) (hs : s.tx.state ≠ .idle) (ht : t.tx.state = .idle) :
    i.isTransition = true ∨ i = .reset := by
  cases h with
  | takeContinue hi | takeWait hi | takeAbort hi => exact .inl hi
  | timeout | consecutive | endDelay | endPauseRewait | endPauseResume => exact .inl rfl
  | sendReject hidle | sendSingle hidle | sendFirst hidle => exact absurd hidle hs
  | reset => exact .inr rfl
  | _ => exact absurd ht hs

/-- Settles O55: by what the effects of an instruction do to TX_STATE. -/
theorem onlyTransitionsEndSend : Obligations.OnlyTransitionsEndSend :=
  fun _ _ _ h => (exec_effect h).transition_of_ended

/-! ### A Consecutive frame -/

/-- A Consecutive frame moves TX_POS, TX_IDX and TX_BLK_CNT on, and otherwise writes at most TX_STATE, TX_TIMER, TX_DONE and
TX_RESULT (R184). -/
theorem TxEngine.afterConsecutive_eq (e : TxEngine) (n : Nat) :
    e.afterConsecutive n =
      { e with
        state := (e.afterConsecutive n).state, pos := BitVec.ofNat 12 (e.pos.toNat + n), idx := e.idx + 1,
        blkCnt := e.blkCnt + 1, timer := (e.afterConsecutive n).timer, done := (e.afterConsecutive n).done,
        result := (e.afterConsecutive n).result } := by
  simp only [TxEngine.afterConsecutive]
  split
  · rfl
  · split <;> rfl

section AfterConsecutive

variable {e : TxEngine} {n : Nat}

/-- The completion test on numbers (R184). -/
theorem TxEngine.pos_eq_len_iff (hn : e.pos.toNat + n ≤ e.len.toNat) :
    BitVec.ofNat 12 (e.pos.toNat + n) = e.len ↔ e.pos.toNat + n = e.len.toNat := by
  have hlt := e.len.isLt
  rw [← BitVec.toNat_inj, BitVec.toNat_ofNat, Nat.mod_eq_of_lt (by omega)]

/-- The test for the end of a block on numbers (R184). -/
theorem TxEngine.blkCnt_eq_bs_iff : e.blkCnt + 1 = e.bs ↔ (e.blkCnt.toNat + 1) % 256 = e.bs.toNat := by
  rw [← BitVec.toNat_inj, BitVec.toNat_add]
  rfl

/-- The last bytes of a send complete it (R184). -/
theorem TxEngine.afterConsecutive_of_end (hend : e.pos.toNat + n = e.len.toNat) :
    e.afterConsecutive n =
      { e with
        state := .idle, pos := BitVec.ofNat 12 (e.pos.toNat + n), idx := e.idx + 1, blkCnt := e.blkCnt + 1, done := true,
        result := .success } := if_pos ((TxEngine.pos_eq_len_iff hend.le).mpr hend)

/-- The end of a block waits for flow control with a fresh timeout (R184). -/
theorem TxEngine.afterConsecutive_of_block (hmore : e.pos.toNat + n < e.len.toNat)
    (hblock : e.bs ≠ 0 ∧ (e.blkCnt.toNat + 1) % 256 = e.bs.toNat) :
    e.afterConsecutive n =
      { e with
        state := .waitFc, pos := BitVec.ofNat 12 (e.pos.toNat + n), idx := e.idx + 1, blkCnt := e.blkCnt + 1, timer := 5000 } :=
  (if_neg (mt (TxEngine.pos_eq_len_iff hmore.le).mp hmore.ne)).trans
    (if_pos (hblock.imp_right TxEngine.blkCnt_eq_bs_iff.mpr))

/-- Within a block the separation time follows (R184). -/
theorem TxEngine.afterConsecutive_of_delay (hmore : e.pos.toNat + n < e.len.toNat)
    (hblock : ¬ (e.bs ≠ 0 ∧ (e.blkCnt.toNat + 1) % 256 = e.bs.toNat)) :
    e.afterConsecutive n =
      { e with
        state := .sepDelay, pos := BitVec.ofNat 12 (e.pos.toNat + n), idx := e.idx + 1, blkCnt := e.blkCnt + 1,
        timer := BitVec.ofNat 32 (stTicks e.st) } :=
  (if_neg (mt (TxEngine.pos_eq_len_iff hmore.le).mp hmore.ne)).trans
    (if_neg (mt (And.imp_right TxEngine.blkCnt_eq_bs_iff.mp) hblock))

end AfterConsecutive

/-- The PCI byte of a Consecutive frame as a number (R74, R184). -/
theorem pciByte_consecutive (idx : BitVec 4) : pciByte 0x2 idx = BitVec.ofNat 8 (0x20 + idx.toNat) := by
  apply BitVec.eq_of_toNat_eq
  rw [pciByte_toNat, BitVec.toNat_ofNat, show (0x2 : BitVec 4).toNat = 2 from rfl]
  omega

/-- TXSTEP in SEND_CF on the state's fields, with its bytes written and room in TXQ (R184). -/
theorem exec_txstep_consecutive {payload : List Byte} (hs : s.tx.state = .sendCf) (hq : belowDepth s.cfg.qTx s.txq.length)
    (hp : Memory.readBytes s.tx.buf s.tx.pos.toNat (min 7 (s.tx.len.toNat - s.tx.pos.toNat)) = some payload) :
    exec .txstep s =
      .next { s with
        tx := s.tx.afterConsecutive (min 7 (s.tx.len.toNat - s.tx.pos.toNat))
        txq := s.txq ++ [outFrame s.tx.id (BitVec.ofNat 8 (0x20 + s.tx.idx.toNat) :: payload)]
        out := .nothing } := by
  have hroom : s.txqRoom = true := (hasRoom_iff _ _).mpr hq
  rw [exec_txstep_sendCf hs, ← pciByte_consecutive]
  simp only [sendConsecutive, hroom, Config.cfMax, hp]
  rfl

/-- Settles O40: the frame by what TXSTEP does in SEND_CF, then completion, the end of a block and the delay one by one. -/
theorem consecutiveFrameIsSent : Obligations.ConsecutiveFrameIsSent := by
  intro s hs hpos hw hq n
  have hlt := s.tx.len.isLt
  have hn : s.tx.pos.toNat + n ≤ s.tx.len.toNat := by omega
  obtain ⟨payload, hp⟩ := Memory.exists_readBytes hw hn
  obtain ⟨hl, hread⟩ := (Memory.readBytes_eq_some_iff _ _ _ _).mp hp
  have heq := s.tx.afterConsecutive_eq n
  refine ⟨_, payload, s.tx.afterConsecutive n, exec_txstep_consecutive hs hq hp, hl, fun i hi => (hread i hi).symm,
    transmits_outFrame _ _ (by rw [List.length_cons]; omega), ?frame, ?pos, ?idx, ?blkCnt, ?next⟩
  case frame => rw [heq]
  case pos =>
    rw [heq]
    exact Nat.mod_eq_of_lt (by omega)
  case idx =>
    rw [heq]
    exact BitVec.toNat_add ..
  case blkCnt =>
    rw [heq]
    exact BitVec.toNat_add ..
  case next =>
    by_cases hend : s.tx.pos.toNat + n = s.tx.len.toNat
    case pos =>
      rw [if_pos hend, TxEngine.afterConsecutive_of_end hend]
      exact ⟨rfl, rfl, rfl, rfl⟩
    case neg =>
      have hmore := Nat.lt_of_le_of_ne hn hend
      rw [if_neg hend]
      split
      case isTrue hb =>
        rw [TxEngine.afterConsecutive_of_block hmore hb]
        exact ⟨rfl, rfl, rfl, rfl⟩
      case isFalse hb =>
        have hticks := stTicks_le s.tx.st
        rw [TxEngine.afterConsecutive_of_delay hmore hb, ← separationTimeInTicks]
        exact ⟨rfl, Nat.mod_eq_of_lt (by omega), rfl, rfl⟩

/-! ### A granted send -/

/-- A depth that admits more entries than a queue holds has room for one (R34, R58). -/
theorem belowDepth_of_depthAdmits {depth : Config.Depth} {n m : Nat} (h : depthAdmits depth m) (hn : n < m) :
    belowDepth depth n := by
  rintro lessOne rfl
  exact hn.trans_le h

/-- The record of a transmitted frame in the words of the statements (R52). -/
theorem outFrame_eq_segmentRecord (id : Ident) (bytes : List Byte) : outFrame id bytes = segmentRecord id.toNat bytes := by
  have hid : extCanId id = BitVec.ofNat 32 (2 ^ 31 + id.toNat) := by
    rw [← extCanId_toNat, BitVec.ofNat_toNat, BitVec.setWidth_eq]
  rw [outFrame, hid]
  rfl

/-- The record of the First frame of a payload (R173). -/
def firstRecord (id : Nat) (payload : List Byte) : FrameRecord :=
  segmentRecord id
    (BitVec.ofNat 8 (0x10 + payload.length / 256) :: BitVec.ofNat 8 (payload.length % 256) :: payload.take 6)

/-- The record of the Consecutive frame with number idx, of the bytes still to send (R184). -/
def consecutiveRecord (id idx : Nat) (left : List Byte) : FrameRecord :=
  segmentRecord id (BitVec.ofNat 8 (0x20 + idx % 16) :: left.take 7)

/-- The records of a payload of more than seven bytes: the First frame and the Consecutive frames (R173, R184). -/
theorem segments_of_long (id : Nat) {payload : List Byte} (h7 : ¬ payload.length ≤ 7) :
    segments id payload =
      firstRecord id payload :: (consecutiveBytes 1 payload.length (payload.drop 6)).map (segmentRecord id) := by
  rw [segments_eq_map, segmentBytes, if_neg h7, List.map_cons, firstRecord]

/-- The Consecutive frames of the bytes still to send, seven bytes each but the last (R176). -/
theorem consecutiveBytes_length {fuel : Nat} {bytes : List Byte} (hf : bytes.length ≤ fuel) (idx : Nat) :
    (consecutiveBytes idx fuel bytes).length = (bytes.length + 6) / 7 := by
  induction fuel generalizing idx bytes with
  | zero =>
    obtain rfl := List.length_eq_zero_iff.mp (Nat.le_zero.mp hf)
    rfl
  | succ fuel ih =>
    by_cases hb : bytes = []
    · rw [hb, consecutiveBytes_nil]
      rfl
    · have hpos := List.length_pos_iff.mpr hb
      rw [consecutiveBytes_of_ne_nil hb, List.length_cons, ih (by rw [List.length_drop]; omega), List.length_drop]
      omega

/-- The TX engine in SEND_CF with the whole window granted (block size 0, no separation time), these bytes still to send, and idx the
number of its next Consecutive frame (R184). -/
structure TxEngine.Granted (e : TxEngine) (left : List Byte) (idx : Nat) : Prop where
  state : e.state = .sendCf
  blockSize : e.bs = 0
  separation : e.st = 0
  index : e.idx.toNat = idx % 16
  length : e.pos.toNat + left.length = e.len.toNat
  bytes : ∀ i, i < left.length → Memory.read e.buf (e.pos.toNat + i) = left[i]?

section Granted

variable {e : TxEngine} {left : List Byte} {idx : Nat}

/-- The next Consecutive frame of a granted send carries its next seven bytes, as far as they go (R184). -/
theorem exec_txstep_of_granted (hg : s.tx.Granted left idx) (hq : belowDepth s.cfg.qTx s.txq.length) :
    exec .txstep s =
      .next { s with
        tx := s.tx.afterConsecutive (min 7 left.length)
        txq := s.txq ++ [consecutiveRecord s.tx.id.toNat idx left]
        out := .nothing } := by
  have hn : s.tx.len.toNat - s.tx.pos.toNat = left.length := by
    rw [← hg.length, Nat.add_sub_cancel_left]
  have hp : Memory.readBytes s.tx.buf s.tx.pos.toNat (min 7 (s.tx.len.toNat - s.tx.pos.toNat)) = some (left.take 7) := by
    rw [hn, Memory.readBytes_eq_some_iff]
    refine ⟨List.length_take, fun i hi => ?_⟩
    rw [hg.bytes i (by omega), List.getElem?_take_of_lt (by omega)]
  rw [exec_txstep_consecutive hg.state hq hp, hn, hg.index, outFrame_eq_segmentRecord, consecutiveRecord]

/-- With the last bytes of its payload a granted send is complete (R184). -/
theorem TxEngine.Granted.completes (hg : e.Granted left idx) :
    (e.afterConsecutive left.length).state = .idle ∧ (e.afterConsecutive left.length).done = true ∧
      (e.afterConsecutive left.length).result = .success := by
  rw [TxEngine.afterConsecutive_of_end hg.length]
  exact ⟨rfl, rfl, rfl⟩

/-- Before that, a granted send goes on over a separation delay that has already passed (R184). -/
theorem TxEngine.Granted.afterConsecutive_eq (hg : e.Granted left idx) (hmore : 7 < left.length) :
    e.afterConsecutive 7 =
      { e with
        state := .sepDelay, pos := BitVec.ofNat 12 (e.pos.toNat + 7), idx := e.idx + 1, blkCnt := e.blkCnt + 1, timer := 0 } := by
  have hlen := hg.length
  rw [TxEngine.afterConsecutive_of_delay (by omega) fun hb => hb.1 hg.blockSize, hg.separation]
  rfl

/-- After seven of its bytes a granted send has the rest still to send (R184). -/
theorem TxEngine.Granted.next (hg : e.Granted left idx) (hmore : 7 < left.length) :
    TxEngine.Granted
      { e with
        state := .sendCf, pos := BitVec.ofNat 12 (e.pos.toNat + 7), idx := e.idx + 1, blkCnt := e.blkCnt + 1, timer := 0 }
      (left.drop 7) (idx + 1) := by
  have hlen := hg.length
  have hlt := e.len.isLt
  have hpos : (BitVec.ofNat 12 (e.pos.toNat + 7)).toNat = e.pos.toNat + 7 := by
    rw [BitVec.toNat_ofNat]
    omega
  refine ⟨rfl, hg.blockSize, hg.separation, ?index, ?length, fun i hi => ?bytes⟩
  case index =>
    simp only [BitVec.toNat_add, hg.index]
    exact Nat.mod_add_mod ..
  case length =>
    simp only [hpos, List.length_drop]
    omega
  case bytes =>
    rw [List.length_drop] at hi
    simp only [hpos, List.getElem?_drop]
    rw [Nat.add_assoc, hg.bytes (7 + i) (by omega)]

/-- Two steps of a granted send that is not at its last frame: the frame, and the end of its empty separation delay (R184, R185). -/
theorem execAll_txstep_twice_of_granted (hg : s.tx.Granted left idx) (hmore : 7 < left.length)
    (hq : belowDepth s.cfg.qTx s.txq.length) (is : List Instr) :
    ∃ tx : TxEngine, tx.Granted (left.drop 7) (idx + 1) ∧ tx.id = s.tx.id ∧
      execAll (.txstep :: .txstep :: is) s =
        execAll is { s with
          tx := tx
          txq := s.txq ++ [consecutiveRecord s.tx.id.toNat idx left]
          out := .nothing } := by
  have hframe := exec_txstep_of_granted hg hq
  rw [Nat.min_eq_left hmore.le, hg.afterConsecutive_eq hmore] at hframe
  refine ⟨_, hg.next hmore, rfl, ?_⟩
  rw [execAll_cons_of_next hframe, execAll_cons_of_next ((expiredTimerTransitions _ rfl).1 rfl)]

/-- A granted send runs to its end: each Consecutive frame of the bytes still to send, in order, and success (R176, R184). -/
theorem execAll_txsteps_of_granted {fuel : Nat} (hg : s.tx.Granted left idx) (hne : left ≠ []) (hf : left.length ≤ fuel)
    (hq : depthAdmits s.cfg.qTx (s.txq.length + (left.length + 6) / 7)) :
    ∃ tx : TxEngine, (tx.state = .idle ∧ tx.done = true ∧ tx.result = .success) ∧
      execAll (List.replicate (2 * ((left.length + 6) / 7) - 1) .txstep) s =
        .next { s with
          tx := tx
          txq := s.txq ++ (consecutiveBytes idx fuel left).map (segmentRecord s.tx.id.toNat)
          out := .nothing } := by
  induction fuel generalizing s left idx with
  | zero => exact absurd (List.length_eq_zero_iff.mp (Nat.le_zero.mp hf)) hne
  | succ fuel ih =>
    have hpos := List.length_pos_iff.mpr hne
    have hroom : belowDepth s.cfg.qTx s.txq.length := belowDepth_of_depthAdmits hq (by omega)
    rw [consecutiveBytes_of_ne_nil hne, List.map_cons, ← consecutiveRecord]
    by_cases hmore : 7 < left.length
    case pos =>
      have hdrop : (left.drop 7).length = left.length - 7 := List.length_drop
      have hsteps : 2 * ((left.length + 6) / 7) - 1 = 2 * (((left.drop 7).length + 6) / 7) - 1 + 1 + 1 := by omega
      obtain ⟨tx, hg', hid, hexec⟩ := execAll_txstep_twice_of_granted hg hmore hroom
        (List.replicate (2 * (((left.drop 7).length + 6) / 7) - 1) .txstep)
      have hroom' : depthAdmits s.cfg.qTx
          ((s.txq ++ [consecutiveRecord s.tx.id.toNat idx left]).length + ((left.drop 7).length + 6) / 7) := by
        rw [List.length_append, List.length_singleton]
        exact depthAdmits_mono hq (by omega)
      obtain ⟨tx', hend, hrest⟩ := ih
        (s := { s with tx := tx, txq := s.txq ++ [consecutiveRecord s.tx.id.toNat idx left], out := .nothing })
        hg' (List.ne_nil_of_length_pos (by omega)) (by omega) hroom'
      refine ⟨tx', hend, ?_⟩
      rw [hsteps, List.replicate_succ, List.replicate_succ, hexec, hrest, hid]
      simp only [List.append_assoc, List.singleton_append]
    case neg =>
      have hlast := exec_txstep_of_granted hg hroom
      have hone : (left.length + 6) / 7 = 1 := by omega
      rw [Nat.min_eq_right (Nat.le_of_not_lt hmore)] at hlast
      refine ⟨_, hg.completes, ?_⟩
      rw [hone, List.drop_eq_nil_of_le (Nat.le_of_not_lt hmore), consecutiveBytes_nil]
      exact execAll_cons_of_next hlast

end Granted

/-- A FlowControl frame that grants everything, and its consumption, start the Consecutive frames (R148, R181). -/
theorem execAll_grant {h : ServiceHead} (hs : s.tx.state = .waitFc) (h3 : 3 ≤ h.len.toNat) (h8 : h.len.toNat ≤ 8)
    (rest : List Byte) (is : List Instr) :
    execAll (.pciFc h 0 0 0 rest :: .txstep :: is) s =
      execAll is { s with
        fc := ⟨false, 0, 0, 0⟩, tx := { s.tx with state := .sendCf, bs := 0, st := 0, blkCnt := 0 }, out := .nothing } := by
  have hstore := flowControlFrameStoredWhileWaiting h 0 0 0 rest s h3 h8
  rw [if_pos (.inl hs)] at hstore
  have htake (u : State) (hu : u.tx.state = .waitFc) (hfc : u.fc = ⟨true, 0, 0, 0⟩) : exec .txstep u = takeContinue u :=
    (exec_txstep_of_flowReady (State.flowReady_iff.mpr ⟨hu, by rw [hfc]⟩)).trans (consumeFlow_of_continue (by rw [hfc]))
  exact (execAll_cons_of_next hstore).trans (execAll_cons_of_next (htake _ hs rfl))

/-- A granted SEND of this payload has pushed its First frame, and the bytes behind it are still to send (R173, R181). -/
theorem execAll_send_grant {payload : List Byte} {h : ServiceHead} (hs : s.tx.state = .idle) (hr : sendInRange a b c d = true)
    (hq : belowDepth s.cfg.qTx s.txq.length) (h8 : 8 ≤ d.toNat) (hl : payload.length = d.toNat)
    (hread : ∀ i, i < d.toNat → Memory.read s.tx.buf i = payload[i]?) (h3 : 3 ≤ h.len.toNat) (hh8 : h.len.toNat ≤ 8)
    (rest : List Byte) (is : List Instr) :
    ∃ tx : TxEngine, tx.Granted (payload.drop 6) 1 ∧ tx.id = sendIdent s.cfg a b c ∧
      execAll (.send a b c d :: .pciFc h 0 0 0 rest :: .txstep :: is) s =
        execAll is { s with
          fc := ⟨false, 0, 0, 0⟩
          tx := tx
          txq := s.txq ++ [firstRecord (sendIdent s.cfg a b c).toNat payload]
          out := .nothing } := by
  obtain ⟨-, -, -, hd⟩ := sendInRange_iff.mp hr
  have hp : Memory.readBytes s.tx.buf 0 d.toNat = some payload :=
    (Memory.readBytes_eq_some_iff _ _ _ _).mpr ⟨hl, fun i hi => by rw [Nat.zero_add, hread i hi]⟩
  have hfirst := exec_send_long hs hr hq hp h8
  rw [outFrame_eq_segmentRecord, ← hl, ← firstRecord] at hfirst
  refine ⟨_, ⟨rfl, rfl, rfl, rfl, ?length, ?read⟩, rfl, (execAll_cons_of_next hfirst).trans (execAll_grant rfl h3 hh8 rest is)⟩
  case length =>
    simp only [List.length_drop, BitVec.toNat_ofNat, BitVec.reduceToNat]
    omega
  case read =>
    intro i hi
    rw [List.length_drop] at hi
    rw [List.getElem?_drop, ← hread (6 + i) (by omega)]
    rfl

/-- Settles O60: SEND pushes the First frame, the grant starts the Consecutive frames, and the granted send runs to its end. -/
theorem sendPushesAllSegments : Obligations.SendPushesAllSegments := by
  intro a b c d payload h rest s hs hroom ha hb hc h8 hd hl hread h3 hh8
  have hdrop : (payload.drop 6).length = d.toNat - 6 := by rw [List.length_drop, hl]
  have hcount : ((payload.drop 6).length + 6) / 7 = consecutiveCount d.toNat := by rw [hdrop, consecutiveCount]
  obtain ⟨tx, hg, hid, hgrant⟩ := execAll_send_grant hs (sendInRange_iff.mpr ⟨ha, hb, hc, hd⟩)
    (belowDepth_of_depthAdmits hroom (by omega)) h8 hl hread h3 hh8 rest
    (List.replicate (2 * consecutiveCount d.toNat - 1) .txstep)
  have hroom' : depthAdmits s.cfg.qTx
      ((s.txq ++ [firstRecord (sendIdent s.cfg a b c).toNat payload]).length + ((payload.drop 6).length + 6) / 7) := by
    rw [hcount, List.length_append, List.length_singleton, Nat.add_assoc]
    exact hroom
  obtain ⟨tx', hend, hrun⟩ := execAll_txsteps_of_granted (fuel := d.toNat)
    (s := { s with
      fc := ⟨false, 0, 0, 0⟩
      tx := tx
      txq := s.txq ++ [firstRecord (sendIdent s.cfg a b c).toNat payload]
      out := .nothing })
    hg (List.ne_nil_of_length_pos (by omega)) (by omega) hroom'
  rw [hcount] at hrun
  rw [← sendIdent_toNat _ ha hb hc, segments_of_long _ (by omega), hl]
  refine ⟨_, hgrant.trans hrun, ?frames, ?count, hend⟩
  case frames =>
    rw [hid, List.append_assoc, List.singleton_append]
  case count =>
    rw [List.length_cons, List.length_map, consecutiveBytes_length (by omega), hcount, Nat.add_comm]

end Sys2Proof.Machine
end

section
/-! PROOFS. The exceptions (60_exceptions.md): a command error is precise (R211, R217), and nothing stops the block but a SEND of a byte
that was never written (R178, R213). -/

namespace Sys2Proof.Machine

open Sys2Proof.Spec

variable {s : State} {i : Instr}

/-! ### Command errors -/

/-- Settles O57: of the effects of an instruction, an answer by itself and a rejected SEND are the only ones that respond with an
error. -/
theorem commandErrorsArePrecise : Obligations.CommandErrorsArePrecise := by
  intro i s t r h ho hr
  cases exec_effect h with
  | answer _ _ hzero =>
    cases ho
    exact ⟨congrArg PortOut.response (hzero hr), .inl rfl⟩
  | sendReject =>
    cases ho
    exact ⟨rfl, .inr ⟨⟨_, _, _, _, rfl⟩, rfl⟩⟩
  | wrbuf | sendSingle | sendFirst =>
    cases ho
    exact absurd rfl hr
  | _ => cases ho

/-! ### The outcomes that do not stop the block -/

/-- The block goes on: the outcome is a next state, a held action among them (R213; log 3). -/
def GoesOn (o : Result) : Prop := ∃ t, o = .next t

theorem goesOn_noStep (s : State) : GoesOn (noStep s) := ⟨_, rfl⟩

theorem goesOn_respond (s : State) (y0 y1 y2 y3 : Word) : GoesOn (respond s y0 y1 y2 y3) := ⟨_, rfl⟩

theorem goesOn_raiseCommand (s : State) (e : ErrKind) : GoesOn (raiseCommand s e) := ⟨_, rfl⟩

/-- A choice goes on when each of its outcomes does under its condition. -/
theorem GoesOn.ite {c : Prop} [Decidable c] {o o' : Result} (ho : c → GoesOn o) (ho' : ¬ c → GoesOn o') :
    GoesOn (if c then o else o') := iteInduction ho ho'

/-! ### An arriving frame -/

theorem goesOn_reportFrameError (s : State) (e : ErrKind) (nibble : BitVec 4) (r : FrameRecord) :
    GoesOn (reportFrameError s e nibble r) := .ite (fun _ => ⟨_, rfl⟩) fun _ => goesOn_noStep s

theorem goesOn_deliver (s : State) (m : Message) : GoesOn (deliver s m) := .ite (fun _ => ⟨_, rfl⟩) fun _ => goesOn_noStep s

theorem goesOn_armFirst (s : State) (prio : BitVec 3) (dst src : BitVec 8) (ffDl : BitVec 12) (payload : List Byte) :
    GoesOn (armFirst s prio dst src ffDl payload) := .ite (fun _ => ⟨_, rfl⟩) fun _ => goesOn_noStep s

/-- A completed transfer reads only bytes that were written (R27, R146). -/
theorem goesOn_completeTransfer {ra : Reassembly} (hra : ra.Ok) (hc : ra.count = ra.size) : GoesOn (completeTransfer s ra) := by
  obtain ⟨bytes, hb, -⟩ := Memory.exists_bytes (hc ▸ hra.written)
  exact .ite (fun hq => ⟨_, (if_pos hq).symm.trans (completeTransfer_of_readBytes hq hb)⟩) fun _ => goesOn_noStep s

theorem goesOn_armConsecutive (hra : s.ra.Ok) (sn : BitVec 4) (payload : List Byte) : GoesOn (armConsecutive s sn payload) :=
  .ite (fun _ => .ite (fun hc => goesOn_completeTransfer (Reassembly.append_ok sn payload hra) hc) fun _ => ⟨_, rfl⟩)
    fun _ => ⟨_, rfl⟩

theorem goesOn_armFlow (s : State) (fs : BitVec 4) (bs st : Byte) : GoesOn (armFlow s fs bs st) :=
  .ite (fun _ => ⟨_, rfl⟩) fun _ => ⟨_, rfl⟩

/-- Every arm goes on, whatever the classification and the room in the queues. -/
theorem goesOn_receive (hra : s.ra.Ok) (r : FrameRecord) (nibble : BitVec 4) :
    (v : Except ErrKind Variant) → GoesOn (receive s r nibble v)
  | .error e => goesOn_reportFrameError s e nibble r
  | .ok (.pubSingle _ _ _ _) => goesOn_deliver s _
  | .ok (.svcSingle _ _ _ _) => goesOn_deliver s _
  | .ok (.svcFirst prio dst src ffDl payload) => goesOn_armFirst s prio dst src ffDl payload
  | .ok (.svcConsecutive _ _ _ sn payload) => goesOn_armConsecutive hra sn payload
  | .ok (.svcFlowControl _ _ _ fs bs st) => goesOn_armFlow s fs bs st

/-- A Service row runs the arm of its classification, or the report of a frame that is too long or empty (R122, R124). -/
theorem receiveService_eq_receive (s : State) (h : ServiceHead) (data : List Byte) (v : Except ErrKind Variant) :
    ∃ r nibble v', receiveService s h data v = receive s r nibble v' := by
  simp only [receiveService]
  split
  case isTrue => exact ⟨_, _, .error .invalidField, rfl⟩
  case isFalse =>
    split
    case isTrue => exact ⟨_, _, .error .truncatedFrame, rfl⟩
    case isFalse => exact ⟨_, _, v, rfl⟩

/-- Every row in which a frame arrives runs an arm of RXFRAME, the report of an error among them (R140). -/
theorem exec_eq_receive_of_isArrival (hi : i.isArrival = true) : ∃ r nibble v, exec i s = receive s r nibble v := by
  cases i with
  | rxframe r => exact ⟨r, _, _, rfl⟩
  | idPub prio doid src len data =>
    simp only [exec, execIdPub]
    split
    case isTrue => exact ⟨_, _, .error .invalidField, rfl⟩
    case isFalse => exact ⟨_, _, _, rfl⟩
  | idReservedDisc prio disc low len data =>
    simp only [exec, execIdReservedDisc]
    split
    case isTrue => exact ⟨_, _, .error .invalidField, rfl⟩
    case isFalse => exact ⟨_, _, .error .malformedIdentifier, rfl⟩
  | idSvc | pciSf | pciFf | pciCf | pciFc | pciReserved => exact receiveService_eq_receive s _ _ _
  | _ => cases hi

theorem goesOn_arrival (hra : s.ra.Ok) (hi : i.isArrival = true) : GoesOn (exec i s) := by
  obtain ⟨r, nibble, v, h⟩ := exec_eq_receive_of_isArrival (s := s) hi
  exact h ▸ goesOn_receive hra r nibble v

/-! ### The commands -/

theorem goesOn_classify (s : State) (a b c d : Word) : GoesOn (exec (.classify a b c d) s) := by
  cases h : classifyFrame s.cfg a b.toNat (operandData c d) with
  | error e => exact ⟨_, exec_classify_error h⟩
  | ok v =>
    obtain ⟨y0, y1, y2, y3, hv⟩ := variantResponse_eq_respond s v
    exact ⟨_, (exec_classify_ok h).trans hv⟩

/-- SEND goes on, held, refused or sent, unless it reads a byte that was never written (R171, R178; log 8). -/
theorem send_goesOn_or_unwritten (s : State) (a b c d : Word) :
    GoesOn (exec (.send a b c d) s) ∨
      exec (.send a b c d) s = .fault .txByteUnwritten ∧ ¬ Memory.writtenBelow s.tx.buf d.toNat := by
  by_cases hs : s.tx.state = .idle
  case neg => exact .inl ⟨_, exec_send_of_busy hs⟩
  cases hr : sendInRange a b c d with
  | false => exact .inl ⟨_, exec_send_of_outOfRange hs hr⟩
  | true =>
    cases hq : s.txqRoom with
    | false => exact .inl ⟨_, exec_send_of_full hs hr hq⟩
    | true =>
      cases hp : Memory.readBytes s.tx.buf 0 d.toNat with
      | none => exact .inr ⟨exec_send_of_unwritten hs hr hq hp, (Memory.readBytes_eq_none_iff _ _).mp hp⟩
      | some payload =>
        rw [exec_send_of_written hs hr hq hp]
        exact .inl (.ite (fun _ => goesOn_respond _ _ _ _ _) fun _ => goesOn_respond _ _ _ _ _)

/-- Every command but SEND answers or is held (R80, R170, R211). -/
theorem goesOn_command (hi : i.isCommand = true) (hsend : ∀ a b c d, i ≠ .send a b c d) : GoesOn (exec i s) := by
  cases i with
  | encpub | encsvc => exact .ite (fun _ => goesOn_respond s _ _ _ _) fun _ => goesOn_raiseCommand s _
  | decpub =>
    exact .ite (fun _ => goesOn_raiseCommand s _) fun _ => .ite (fun _ => goesOn_raiseCommand s _) fun _ =>
      goesOn_respond s _ _ _ _
  | decsvc =>
    exact .ite (fun _ => goesOn_raiseCommand s _) fun _ => .ite (fun _ => goesOn_raiseCommand s _) fun _ =>
      .ite (fun _ => goesOn_raiseCommand s _) fun _ => goesOn_respond s _ _ _ _
  | classify a b c d => exact goesOn_classify s a b c d
  | wrbuf =>
    exact .ite (fun _ => goesOn_noStep s) fun _ => .ite (fun _ => goesOn_respond _ _ _ _ _) fun _ => goesOn_raiseCommand s _
  | send a b c d => exact absurd rfl (hsend a b c d)
  | status => exact goesOn_respond s _ _ _ _
  | reservedOp0 | reservedOp9 | reservedOpA | reservedOpB | reservedOpC | reservedOpD | reservedOpE | reservedOpF
  | reservedCwHigh => exact goesOn_raiseCommand s _
  | _ => cases hi

/-! ### The TX engine -/

/-- TXSTEP takes the enabled transition or has no step (R191). -/
theorem goesOn_txstep (hs : s.Inv) : GoesOn (exec .txstep s) := by
  obtain ⟨henabled, hheld⟩ := txstepEnabledExactly s hs
  exact (Classical.em _).elim (fun h => (henabled h).imp fun _ => And.left) fun h => ⟨_, hheld h⟩

/-- Every transition of the TX engine goes on: the bytes of a send in progress are written (R178, R194). -/
theorem goesOn_transition (hs : s.Inv) (hi : i.isTransition = true) : GoesOn (exec i s) := by
  cases i with
  | txstep => exact goesOn_txstep hs
  | fcContinue | fcWait | fcAbort | fcReserved => exact .ite (fun _ => ⟨_, rfl⟩) fun _ => goesOn_noStep s
  | _ => cases hi

/-! ### The pops -/

theorem goesOn_poptx (s : State) : GoesOn (exec .poptx s) := by
  cases h : s.txq with
  | nil => exact ⟨_, exec_poptx_nil h⟩
  | cons f rest => exact ⟨_, exec_poptx_cons h⟩

theorem goesOn_popmsg (s : State) : GoesOn (exec .popmsg s) := by
  cases h : s.msgq with
  | nil => exact ⟨_, exec_popmsg_nil h⟩
  | cons m rest => exact ⟨_, exec_popmsg_cons h⟩

theorem goesOn_poperr (s : State) : GoesOn (exec .poperr s) := by
  cases h : s.errq with
  | nil => exact ⟨_, exec_poperr_nil h⟩
  | cons e rest => exact ⟨_, exec_poperr_cons h⟩

/-- Settles O58: an instruction is an arrival, a command, a transition, or another port action; SEND is the only one that can stop. -/
theorem onlyUnwrittenSendStops : Obligations.OnlyUnwrittenSendStops := by
  intro i s hs
  cases i with
  | send a b c d => exact (send_goesOn_or_unwritten s a b c d).imp_right fun h => ⟨a, b, c, d, rfl, h⟩
  | rxframe | idPub | idSvc | idReservedDisc | pciSf | pciFf | pciCf | pciFc | pciReserved => exact .inl (goesOn_arrival hs.ra rfl)
  | txstep | fcContinue | fcWait | fcAbort | fcReserved => exact .inl (goesOn_transition hs rfl)
  | tick => exact .inl (GoesOn.ite (fun _ => ⟨_, rfl⟩) fun _ => ⟨_, rfl⟩)
  | poptx => exact .inl (goesOn_poptx s)
  | popmsg => exact .inl (goesOn_popmsg s)
  | poperr => exact .inl (goesOn_poperr s)
  | reset => exact .inl ⟨_, rfl⟩
  | _ => exact .inl (goesOn_command rfl fun _ _ _ _ h => nomatch h)

end Sys2Proof.Machine
end

section
/-! PROOFS. Reset (70_reset_and_hazards.md): the state RESET leaves (R240), and what it makes of the block on both sides (R241). -/

namespace Sys2Proof.Machine

open Sys2Proof.Spec

variable {s t : State}

/-- RESET on the state's fields, from every state (R240). -/
theorem exec_reset (s : State) :
    exec .reset s =
      .next { s with ra := .reset, fc := .reset, tx := .reset, txq := [], msgq := [], errq := [], out := .nothing } := rfl

/-- Settles O47: register by register, in the state RESET is known to leave. -/
theorem resetGivesResetValues : Obligations.ResetGivesResetValues := by
  refine fun s => ⟨_, exec_reset s, ?reassembly, ?flow, ?engine, ?queues, fun i => ?buffers, ?kept, rfl⟩
  case reassembly => exact ⟨rfl, rfl, rfl, rfl, rfl, rfl, rfl⟩
  case flow => exact ⟨rfl, rfl, rfl, rfl⟩
  case engine => exact ⟨rfl, rfl, rfl, rfl, rfl, rfl, rfl, rfl, rfl, rfl, rfl⟩
  case queues => exact ⟨rfl, rfl, rfl⟩
  case buffers => exact ⟨Memory.read_nil i, Memory.read_nil i⟩
  case kept => exact ⟨rfl, rfl, rfl, rfl⟩

/-- What RESET leaves of the registers and queues that the enabling conditions read (R240). -/
theorem registers_of_exec_reset (h : exec .reset s = .next t) :
    t.ra = .reset ∧ t.fc = .reset ∧ t.tx = .reset ∧ t.txq = [] := by
  cases (exec_reset s).symm.trans h
  exact ⟨rfl, rfl, rfl, rfl⟩

/-- An empty queue takes an entry at every depth (R6, R58). -/
theorem belowDepth_zero (depth : Config.Depth) : belowDepth depth 0 := fun lessOne _ => Nat.succ_pos lessOne

/-- No byte of a buffer need be written for a payload of no bytes (R178). -/
theorem Memory.writtenBelow_zero (m : Memory) : m.writtenBelow 0 := fun _ hi => absurd hi (Nat.not_lt_zero _)

/-- WRBUF of legal operands answers success in IDLE (R170). -/
theorem exec_wrbuf_succeeds {a b : Word} (hs : s.tx.state = .idle) (ha : a.toNat ≤ 4094) (hb : b.toNat ≤ 255) :
    ∃ u, exec (.wrbuf a b) s = .next u ∧ u.out = .response ⟨.success, 0, 0, 0, 0⟩ := by
  obtain ⟨hwrites, -, -⟩ := wrbufWritesOneByte a b s
  obtain ⟨buf, hu, -, -⟩ := hwrites hs ha hb
  exact ⟨_, hu, rfl⟩

/-- SEND of no bytes answers success in IDLE, with legal operands and room in TXQ, whatever TX_BUF holds (R171, R172). -/
theorem exec_send_empty_succeeds {a b c : Word} (hs : s.tx.state = .idle) (ha : a.toNat ≤ 7) (hb : b.toNat ≤ 255)
    (hc : c.toNat ≤ 255) (hq : belowDepth s.cfg.qTx s.txq.length) :
    ∃ u, exec (.send a b c 0) s = .next u ∧ u.out = .response ⟨.success, 0, 0, 0, 0⟩ := by
  obtain ⟨id, f, payload, hu, -⟩ :=
    shortSendPushesSingleFrame a b c 0 s hs ha hb hc (Nat.zero_le 7) (Memory.writtenBelow_zero _) hq
  exact ⟨_, hu, rfl⟩

/-- STATUS answers four zeros while both engines hold their reset values (R196, R240). -/
theorem exec_status_of_reset (hra : s.ra = .reset) (htx : s.tx = .reset) : exec .status s = respond s 0 0 0 0 := by
  simp only [exec, execStatus, hra, htx]
  rfl

/-- Settles O48: each action by its own law, in the idle engines and the empty TXQ that RESET leaves. -/
theorem resetLeavesBlockIdle : Obligations.ResetLeavesBlockIdle := by
  intro s t hreset
  obtain ⟨hra, hfc, htx, htxq⟩ := registers_of_exec_reset hreset
  have hidle : t.tx.state = .idle := by rw [htx]; rfl
  have hactive : t.ra.active = false := by rw [hra]; rfl
  have hroom : belowDepth t.cfg.qTx t.txq.length := by rw [htxq]; exact belowDepth_zero _
  refine ⟨?consecutive, ?wrbuf, ?send, ?tuple, exec_status_of_reset hra htx⟩
  case consecutive => exact fun h sn rest h1 h8 => unexpectedConsecutiveFrameDropped h sn rest t h1 h8 (.inl hactive)
  case wrbuf => exact fun a b => exec_wrbuf_succeeds hidle
  case send => exact fun a b c ha hb hc => exec_send_empty_succeeds hidle ha hb hc hroom
  case tuple => rw [hfc]; rfl

end Sys2Proof.Machine
end
